-- ==== Sys2Proof/Word.lean ====
section
/-! DEFINITION. The block's basic values: bytes, operation words, line levels, the two units, the
four output lines, pixels. Rules cited as R<n> are those of spec/. -/

namespace Sys2Proof

/-- A byte is 8 bits (R8). -/
abbrev Byte := BitVec 8

/-- An operation word is 32 bits (R80); a binary32 number is written as its 32 bits too (R11). -/
abbrev Word := BitVec 32

/-- The 16-bit immediate of an operation word (R80, R82); a duration in milliseconds (R191, R196). -/
abbrev Half := BitVec 16

/-- The level of an output line: `false` is 0, low; `true` is 1, high (R32, R112). -/
abbrev Level := Bool

/-- The two units (R2): `d` is unit D (display), `l` is unit L (LED). -/
inductive UnitId where
  | d
  | l
deriving DecidableEq, Repr, Inhabited

/-- The four output lines of unit D (R32). -/
inductive Line where
  | cs
  | dc
  | rst
  | pwr
deriving DecidableEq, Repr, Inhabited

/-- An RGB8 pixel: three 8-bit channels, in the order red, green, blue (R10). -/
structure Pixel where
  r : Byte
  g : Byte
  b : Byte
deriving DecidableEq, Repr, Inhabited

/-- The pixel (0, 0, 0), every pixel's value after reset (R42). -/
def Pixel.black : Pixel := ⟨0, 0, 0⟩

/-- A pixel as a 24-bit value, red in bits 23:16 (R10). -/
def Pixel.packed (p : Pixel) : BitVec 24 := p.r ++ p.g ++ p.b

end Sys2Proof
end

