-- ==== Sys2Proof/Config.lean ====
section
/-! DEFINITION. What is fixed for one block: the parameters of R7, and the free values (R21): the
choices the rules write as `draw`. -/

namespace Sys2Proof

/-! ## Agents and draws -/

/-- The steps that can be enabled at once (R20): one for each unit's sequencer, the SPI channel, the
pulse channel, and the timer, which holds one wait for each unit (R38). -/
inductive Agent where
  | unit (u : UnitId)
  | spi
  | pulse
  | timer (u : UnitId)
deriving DecidableEq, Repr, Inhabited

/-- The unit an agent's step acts for: unit D owns the SPI channel and unit L the pulse channel (R27). -/
def Agent.owner : Agent → UnitId
  | .unit u => u
  | .spi => .d
  | .pulse => .l
  | .timer u => u

/-- The free choices of one step, for every `draw` of the rules (R9, R21). -/
structure Draw where
  /-- which agent moves (R20, R71) -/
  agent : Agent
  /-- whether an SPI channel step is the fault step (R125) -/
  spiFault : Bool
  /-- the level of CS after a failed frame (R146) -/
  csLevel : Level
  /-- whether a frame's result is PulseFault (R172) -/
  pulseFault : Bool
  /-- whether a faulted frame was emitted all the same (R172) -/
  frameSent : Bool
deriving DecidableEq, Repr, Inhabited

/-- What a step of a unit's agents draws, beside which agent moves (R21): the SPI fault, the level of
CS after it, the pulse fault, and whether its frame was emitted. -/
def Draw.outcomes (d : Draw) : Bool × Level × Bool × Bool :=
  (d.spiFault, d.csLevel, d.pulseFault, d.frameSent)

/-! ## Parameters (R7) -/

/-- `INIT_RESET_MODE` (R7, R141). -/
inductive InitResetMode where
  | pulse
  | preAsserted
deriving DecidableEq, Repr, Inhabited

/-- `ON_TRANSMIT_FAULT` (R7, R256). -/
inductive OnTransmitFault where
  | halts
  | continues
deriving DecidableEq, Repr, Inhabited

/-- `SPI_BIT_ORDER`, `PULSE_BIT_ORDER` (R63, R176). -/
inductive BitOrder where
  | msbFirst
  | lsbFirst
deriving DecidableEq, Repr, Inhabited

/-- `PIXEL_WIRE_ORDER`: a permutation of the three channels (R7, R176). -/
inductive PixelOrder where
  | rgb
  | rbg
  | grb
  | gbr
  | brg
  | bgr
deriving DecidableEq, Repr, Inhabited

/-- `SPI_MODE`: clock polarity and phase (R130). -/
structure SpiMode where
  polarity : Bool
  phase : Bool
deriving DecidableEq, Repr, Inhabited

/-- `PULSE_TIMING` in nanoseconds (R303). -/
structure PulseTiming where
  t0h : Nat
  t0l : Nat
  t1h : Nat
  t1l : Nat
  latch : Nat
deriving DecidableEq, Repr, Inhabited

/-- The configuration of one block (R6, R7): the parameters a launch may choose. -/
structure Config where
  /-- `N_PIXELS`, 1..65535, both ends in the range (DESIGN CHOICE, log 12) -/
  nPixels : Nat
  initResetMode : InitResetMode
  /-- `T_RST_LOW_MS` -/
  tRstLowMs : Half
  /-- `T_SETTLE_MS`, at least 200 -/
  tSettleMs : Half
  onTransmitFault : OnTransmitFault
  /-- `PULSE_FAULTS` -/
  pulseFaults : Bool
  /-- `WHEEL_BRIGHTNESS`, a binary32 number that is not NaN -/
  wheelBrightness : Word
  /-- `T_CHASE_MS`, at least 1 -/
  tChaseMs : Half
  /-- `PWR_RESET` -/
  pwrReset : Level
  spiBitOrder : BitOrder
  spiMode : SpiMode
  spiClockHz : Nat
  pixelWireOrder : PixelOrder
  pulseBitOrder : BitOrder
  pulseTiming : PulseTiming
  clockWidth : Nat
deriving DecidableEq, Repr

namespace Config

/-- `CS_ACTIVE = 0` (R7, R112, D8). -/
abbrev csActive : Level := false

/-- `DC_COMMAND = 0` (R7, R112). -/
abbrev dcCommand : Level := false

/-- `DC_DATA = 1` (R7, R112). -/
abbrev dcData : Level := true

/-- `RST_ACTIVE = 0` (R7, R112). -/
abbrev rstActive : Level := false

/-- `INIT_OPCODE = 0x11`, "exit sleep mode" (R7, R91). -/
abbrev initOpcode : Byte := 0x11

/-- `CHASE_STEP = 4` (R7, R219). -/
abbrev chaseStep : Byte := 4

/-- `CHASE_BRIGHTNESS = 0.5` in binary32 (R7, R224). -/
abbrev chaseBrightness : Word := 0x3F000000

/-- `WHEEL_CYCLE = 1280` (R7, R230). -/
abbrev wheelCycle : Nat := 1280

/-- `T_WHEEL_MS = 10` (R7, R199). -/
abbrev tWheelMs : Half := 10

/-! ## Free values: constants with no body, so that no proof can use what they are -/

/-- The draws of a run that `State.choices` does not give, by their number in the run (R21; DESIGN
CHOICE: the form, log 1). -/
opaque freeDraw : Nat → Draw

/-- The level of DC after reset: a draw (R42, R282; log 4). -/
opaque dcAtReset : Level

/-- `PWR_RESET` of the reference configuration: OPEN, with no reference value (R7; log 3). -/
opaque pwrAtReset : Level

/-- `SPI_MODE` of the reference configuration: OPEN, read by no rule of the machine (R130; log 3). -/
opaque openSpiMode : SpiMode

/-- `SPI_CLOCK_HZ` of the reference configuration: OPEN, read by no rule (R130; log 3). -/
opaque openSpiClockHz : Nat

/-- `CLOCK_WIDTH` of the reference configuration: OPEN, read by no rule (R190; log 3). -/
opaque openClockWidth : Nat

/-- The WS2812 figures of R303, informative (PRESUMED: from general knowledge, log 3). -/
def ws2812Timing : PulseTiming := ⟨400, 850, 800, 450, 50000⟩

/-- The configuration of `State.reset`: the value R7 states where it states one; for the OPEN
parameters the values log 3 names (DESIGN CHOICE). -/
def reference : Config where
  nPixels := 8
  initResetMode := .pulse
  tRstLowMs := 10
  tSettleMs := 200
  onTransmitFault := .halts
  pulseFaults := true
  wheelBrightness := 0x3F000000
  tChaseMs := 100
  pwrReset := pwrAtReset
  spiBitOrder := .msbFirst
  spiMode := openSpiMode
  spiClockHz := openSpiClockHz
  pixelWireOrder := .grb
  pulseBitOrder := .msbFirst
  pulseTiming := ws2812Timing
  clockWidth := openClockWidth

end Config

end Sys2Proof
end

