-- ==== Sys2Proof/Syntax.lean ====
section
/-! DEFINITION. The operations as terms (R84): one constructor of `Instr` for each row of
spec/opcode_table.json; the operation as a program holds it (R26, R80); programs; the assembler's
pseudo-operations (R93). -/

namespace Sys2Proof

/-- The eleven operation codes of R84. -/
inductive Opcode where
  | lineSet
  | spiWrite
  | dispInit
  | dispCmd
  | dispData
  | pulseWrite
  | sleep
  | tickerSet
  | tickerNext
  | chaseStep
  | wheelStep
deriving DecidableEq, Repr

/-- An operation with its operands. The byte count of a payload operation is the length of its
payload (R61, R81). -/
inductive Instr where
  /-- LINE_SET (R111) -/
  | lineSet (line : Line) (level : Level)
  /-- SPI_WRITE (R121) -/
  | spiWrite (bytes : List Byte)
  /-- DISP_INIT (R141) -/
  | dispInit
  /-- DISP_CMD (R143) -/
  | dispCmd (op : Byte) (payload : List Byte)
  /-- DISP_DATA (R150) -/
  | dispData (payload : List Byte)
  /-- PULSE_WRITE (R171) -/
  | pulseWrite (count : Half)
  /-- SLEEP (R191) -/
  | sleep (ms : Half)
  /-- TICKER_SET (R196) -/
  | tickerSet (period : Half)
  /-- TICKER_NEXT (R197) -/
  | tickerNext
  /-- CHASE_STEP (R224) -/
  | chaseStep
  /-- WHEEL_STEP (R230) -/
  | wheelStep
deriving DecidableEq, Repr

/-- The operation code of an operation. -/
def Instr.opcode : Instr → Opcode
  | .lineSet _ _ => .lineSet
  | .spiWrite _ => .spiWrite
  | .dispInit => .dispInit
  | .dispCmd _ _ => .dispCmd
  | .dispData _ => .dispData
  | .pulseWrite _ => .pulseWrite
  | .sleep _ => .sleep
  | .tickerSet _ => .tickerSet
  | .tickerNext => .tickerNext
  | .chaseStep => .chaseStep
  | .wheelStep => .wheelStep

/-- The payload of an operation; empty unless it takes one (R61). -/
def Instr.payload : Instr → List Byte
  | .spiWrite bytes => bytes
  | .dispCmd _ payload => payload
  | .dispData payload => payload
  | .lineSet _ _ | .dispInit | .pulseWrite _ | .sleep _ | .tickerSet _ | .tickerNext | .chaseStep
  | .wheelStep => []

/-- An operation as a program holds it: a word and a payload (R26, R80). -/
structure Op where
  word : Word
  payload : List Byte
deriving DecidableEq, Repr

/-- A unit's program: the prologue runs once, the body repeats (R26). -/
structure Program where
  prologue : List Op
  body : List Op
deriving DecidableEq, Repr

/-- The empty program, `Done` from launch (R29). -/
def Program.empty : Program := ⟨[], []⟩

/-- `prologue ++ body` (R26). -/
def Program.ops (p : Program) : List Op := p.prologue ++ p.body

/-- The pseudo-operations of R93. -/
inductive Pseudo where
  | csAssert
  | csDeassert
  | dcCmd
  | dcData
  | rstAssert
  | rstRelease
  | slpout
  | frame
deriving DecidableEq, Repr

end Sys2Proof
end

