-- ==== Sys2Proof/WellFormed.lean ====
section
/-! DEFINITION. What an operation must meet to have an operation word: its payload can be counted by
the word's 16-bit IMM field (R61, R80). The ranges a launch checks are in Machine/Launch.lean. -/

namespace Sys2Proof

/-- A payload's length is its word's 16-bit IMM field (R61, R80), so it is below 65536. -/
def Instr.wf (i : Instr) : Bool := i.payload.length < 65536

end Sys2Proof
end

