-- ==== Sys2Proof/Decode.lean ====
section
/-! DEFINITION. The operation word (R80 to R87): its fields, the table of R84, the decoder of R81,
total on any word, payload and unit; the encoder; the pseudo-operations of R93. -/

namespace Sys2Proof

/-! ## Fields (R80) -/

/-- `OPC`, bits 31:24 (R80). -/
def opcField (w : Word) : BitVec 8 := w.extractLsb' 24 8

/-- `A`, bits 23:16 (R80, R83). -/
def argField (w : Word) : Byte := w.extractLsb' 16 8

/-- `IMM`, bits 15:0, always unsigned (R80, R82). -/
def immField (w : Word) : Half := w.extractLsb' 0 16

/-- `word = OPC : A : IMM`, which is `OPC * 2^24 + A * 2^16 + IMM` (R80). -/
def packWord (opc : BitVec 8) (a : Byte) (imm : Half) : Word :=
  BitVec.ofNat 32 (opc.toNat * 2 ^ 24 + a.toNat * 2 ^ 16 + imm.toNat)

/-! ## The table (R84) -/

/-- The operation code of a row, or none: 0x00 and 0x0C to 0xFF are illegal (R84, R85). -/
def Opcode.ofBits (b : BitVec 8) : Option Opcode :=
  match b.toNat with
  | 0x01 => some .lineSet
  | 0x02 => some .spiWrite
  | 0x03 => some .dispInit
  | 0x04 => some .dispCmd
  | 0x05 => some .dispData
  | 0x06 => some .pulseWrite
  | 0x07 => some .sleep
  | 0x08 => some .tickerSet
  | 0x09 => some .tickerNext
  | 0x0A => some .chaseStep
  | 0x0B => some .wheelStep
  | _ => none

/-- The `OPC` column of R84. -/
def Opcode.bits : Opcode → BitVec 8
  | .lineSet => 0x01
  | .spiWrite => 0x02
  | .dispInit => 0x03
  | .dispCmd => 0x04
  | .dispData => 0x05
  | .pulseWrite => 0x06
  | .sleep => 0x07
  | .tickerSet => 0x08
  | .tickerNext => 0x09
  | .chaseStep => 0x0A
  | .wheelStep => 0x0B

/-- The `match` column of R84. -/
def Opcode.matchWord : Opcode → Word
  | .lineSet => 0x01000000
  | .spiWrite => 0x02000000
  | .dispInit => 0x03000000
  | .dispCmd => 0x04000000
  | .dispData => 0x05000000
  | .pulseWrite => 0x06000000
  | .sleep => 0x07000000
  | .tickerSet => 0x08000000
  | .tickerNext => 0x09000000
  | .chaseStep => 0x0A000000
  | .wheelStep => 0x0B000000

/-- The `mask` column of R84. -/
def Opcode.mask : Opcode → Word
  | .lineSet => 0xFFFCFFFE
  | .spiWrite => 0xFFFF0000
  | .dispInit => 0xFFFFFFFF
  | .dispCmd => 0xFF000000
  | .dispData => 0xFFFF0000
  | .pulseWrite => 0xFFFF0000
  | .sleep => 0xFFFF0000
  | .tickerSet => 0xFFFF0000
  | .tickerNext => 0xFFFFFFFF
  | .chaseStep => 0xFFFFFFFF
  | .wheelStep => 0xFFFFFFFF

/-- The `units` column of R84. -/
def Opcode.allows : Opcode → UnitId → Bool
  | .lineSet, u | .spiWrite, u | .dispInit, u | .dispCmd, u | .dispData, u => u == .d
  | .pulseWrite, u | .chaseStep, u | .wheelStep, u => u == .l
  | .sleep, _ | .tickerSet, _ | .tickerNext, _ => true

/-- The number of payload bytes a row asks for: IMM for the three payload operations, none for the
others (R61, R87). -/
def Opcode.payloadLength : Opcode → Half → Nat
  | .spiWrite, imm | .dispCmd, imm | .dispData, imm => imm.toNat
  | .lineSet, _ | .dispInit, _ | .pulseWrite, _ | .sleep, _ | .tickerSet, _ | .tickerNext, _
  | .chaseStep, _ | .wheelStep, _ => 0

/-- A word belongs to a row when `word AND mask = match` (R84). -/
def Opcode.matches (o : Opcode) (w : Word) : Bool := w &&& o.mask == o.matchWord

/-- The line numbers of R86: 0 = CS, 1 = DC, 2 = RST, 3 = PWR. -/
def Line.ofBits (b : BitVec 2) : Line :=
  match b.toNat with
  | 0 => .cs
  | 1 => .dc
  | 2 => .rst
  | _ => .pwr

/-- The line's number in `A` (R86). -/
def Line.bits : Line → Byte
  | .cs => 0
  | .dc => 1
  | .rst => 2
  | .pwr => 3

/-! ## Decoding (R81) -/

/-- What decoding answers (R81): an operation; `ILLEGAL_OP`; or a payload-length refusal. -/
inductive Decoded where
  | ok (i : Instr)
  | illegalOp
  | payloadLength
deriving DecidableEq, Repr

/-- The operands of a word of the row `o`. -/
def Opcode.build (o : Opcode) (a : Byte) (imm : Half) (payload : List Byte) : Instr :=
  match o with
  | .lineSet => .lineSet (Line.ofBits (a.extractLsb' 0 2)) (imm.getLsbD 0)
  | .spiWrite => .spiWrite payload
  | .dispInit => .dispInit
  | .dispCmd => .dispCmd a payload
  | .dispData => .dispData payload
  | .pulseWrite => .pulseWrite imm
  | .sleep => .sleep imm
  | .tickerSet => .tickerSet imm
  | .tickerNext => .tickerNext
  | .chaseStep => .chaseStep
  | .wheelStep => .wheelStep

/-- The decoder, its checks in the order of R81: operation code, reserved bits, unit, payload
length. -/
def decode (w : Word) (payload : List Byte) (u : UnitId) : Decoded :=
  match Opcode.ofBits (opcField w) with
  | none => .illegalOp
  | some o =>
    if !o.matches w then .illegalOp
    else if !o.allows u then .illegalOp
    else if payload.length ≠ o.payloadLength (immField w) then .payloadLength
    else .ok (o.build (argField w) (immField w) payload)

/-- Decoding an operation of a program (R28). -/
def Op.decode (o : Op) (u : UnitId) : Decoded := Sys2Proof.decode o.word o.payload u

/-! ## Encoding (R84, R92) -/

/-- The `A` field of an operation's word (R83, R84). -/
def Instr.argBits : Instr → Byte
  | .lineSet line _ => line.bits
  | .dispCmd op _ => op
  | .spiWrite _ | .dispInit | .dispData _ | .pulseWrite _ | .sleep _ | .tickerSet _ | .tickerNext
  | .chaseStep | .wheelStep => 0

/-- The `IMM` field of an operation's word (R82, R84). -/
def Instr.immBits : Instr → Half
  | .lineSet _ level => if level then 1 else 0
  | .spiWrite bytes => BitVec.ofNat 16 bytes.length
  | .dispCmd _ payload => BitVec.ofNat 16 payload.length
  | .dispData payload => BitVec.ofNat 16 payload.length
  | .pulseWrite count => count
  | .sleep ms => ms
  | .tickerSet period => period
  | .dispInit | .tickerNext | .chaseStep | .wheelStep => 0

/-- The operation word and payload of an operation (R80, R92). -/
def encode (i : Instr) : Op := ⟨packWord i.opcode.bits i.argBits i.immBits, i.payload⟩

/-! ## Pseudo-operations (R93) -/

/-- The expansions of R93. -/
def Pseudo.expand (cfg : Config) : Pseudo → Instr
  | .csAssert => .lineSet .cs Config.csActive
  | .csDeassert => .lineSet .cs (!Config.csActive)
  | .dcCmd => .lineSet .dc Config.dcCommand
  | .dcData => .lineSet .dc Config.dcData
  | .rstAssert => .lineSet .rst Config.rstActive
  | .rstRelease => .lineSet .rst (!Config.rstActive)
  | .slpout => .dispCmd Config.initOpcode []
  | .frame => .pulseWrite (BitVec.ofNat 16 cfg.nPixels)

/-! ## One word of the opcode table -/

/-- A unit that may execute a word: unit D unless the word's row lists unit L alone (R84). -/
def unitForWord (w : Word) : UnitId :=
  match Opcode.ofBits (opcField w) with
  | some o => if o.allows .d then .d else .l
  | none => .d

/-- The operation with the word `w` whose payload bytes, if it takes any, are all 0. -/
def zeroPayloadOp (w : Word) : Op :=
  match Opcode.ofBits (opcField w) with
  | some o => ⟨w, List.replicate (o.payloadLength (immField w)) 0⟩
  | none => ⟨w, []⟩

/-- The `nbits` bits of a table word as an operation word, every bit above them 0. -/
def tableWord (nbits w : Nat) : Word := BitVec.ofNat 32 (w % 2 ^ nbits)

/-- The instruction the decoder reads from a word of spec/opcode_table.json, executed by a unit its
row lists, with a payload of zeros where the row takes one. -/
def decodeTableWord (nbits w : Nat) : Option Instr :=
  let word := tableWord nbits w
  match (zeroPayloadOp word).decode (unitForWord word) with
  | .ok i => some i
  | .illegalOp => none
  | .payloadLength => none

end Sys2Proof
end

