-- ==== Sys2Proof/Machine/Binary32.lean ====
section
/-! DEFINITION. Brightness factors: IEEE 754 binary32 numbers, as their 32 bits (R11, D19), and the
arithmetic `scale` needs: clamping to [0, 1], one rounding to nearest even, truncation (R214). -/

namespace Sys2Proof.Machine

/-- The biased exponent, bits 30:23. -/
def f32Exponent (b : Word) : Nat := (b.extractLsb' 23 8).toNat

/-- The fraction, bits 22:0. -/
def f32Fraction (b : Word) : Nat := (b.extractLsb' 0 23).toNat

/-- Not a number: the exponent all ones and a fraction that is not 0 (R257). -/
def f32IsNaN (b : Word) : Bool := f32Exponent b == 255 && f32Fraction b != 0

/-- The binary32 number 1.0. -/
def f32One : Word := 0x3F800000

/-- `min(max(b, 0.0), 1.0)` for `b` that is not NaN (R214): a number with the sign bit set acts as
0.0 (-0.0 and -infinity among them) and one above 1.0 acts as 1.0 (R215). Among numbers without the
sign bit, the order of the numbers is the order of their bits. -/
def f32Clamp (b : Word) : Word :=
  if b.msb then 0
  else if f32One.toNat < b.toNat then f32One
  else b

/-- The exact value `mant * 2 ^ exp`. -/
structure Scaled where
  mant : Nat
  exp : Int
deriving DecidableEq, Repr

/-- The value of a finite binary32 number without the sign bit; the exponent field 0 is that of the
subnormal numbers. -/
def f32Value (b : Word) : Scaled :=
  if f32Exponent b = 0 then ⟨f32Fraction b, -149⟩
  else ⟨f32Fraction b + 2 ^ 23, (f32Exponent b : Int) - 150⟩

/-- `m / 2 ^ d` rounded to the nearest natural number, ties to even. -/
def roundShift (m d : Nat) : Nat :=
  let q := m / 2 ^ d
  let r := m % 2 ^ d
  if 2 ^ d < 2 * r then q + 1
  else if 2 * r = 2 ^ d ∧ q % 2 = 1 then q + 1
  else q

/-- The binary32 value nearest to `x`, ties to even (R11), for `x` that binary32 does not overflow:
24 significant bits, none below 2 ^ -149. -/
def roundToF32 (x : Scaled) : Scaled :=
  let d := max (Nat.log2 x.mant + 1 - 24) (-149 - x.exp).toNat
  ⟨roundShift x.mant d, x.exp + d⟩

/-- `trunc`: rounding toward zero (R11), for a value that is not negative. -/
def truncScaled (x : Scaled) : Nat :=
  if 0 ≤ x.exp then x.mant * 2 ^ x.exp.toNat else x.mant / 2 ^ (-x.exp).toNat

/-- `trunc(f32(x * s))` (R214): the product is formed exactly, rounded once, then truncated. -/
def mulTrunc (x : Nat) (s : Word) : Nat :=
  truncScaled (roundToF32 ⟨x * (f32Value s).mant, (f32Value s).exp⟩)

end Sys2Proof.Machine
end

