-- ==== Sys2Proof/Machine/State.lean ====
section
/-! DEFINITION. The machine's state as plain data (R24, R32 to R42), the launch inputs it runs with
(R7, R26) and the state after reset (R42, R280, R281). -/

namespace Sys2Proof.Machine

/-! ## Sequencer state (R24, R25) -/

/-- What a unit waits for (R25). -/
inductive Wait where
  | spiDone
  | frameDone
  | sleepDone
  | tickDone
deriving DecidableEq, Repr

/-- `U.run` (R25). -/
inductive Run where
  | running
  | waiting (w : Wait)
  | done
  | halted
deriving DecidableEq, Repr

/-- `U.st` (R39). -/
inductive Status where
  | ok
  | transmitFault
deriving DecidableEq, Repr

/-- The display driver state `drv` (R33, R140). -/
inductive Driver where
  | uninitialized
  | initializing
  | ready
deriving DecidableEq, Repr

/-- The spec's fault codes (R251). -/
inductive FaultCode where
  | illegalOp
  | transmitFault
  | protocol
  | frameViolation
  | param
  | pulseFault
deriving DecidableEq, Repr

/-- The `info recorded` column of R251. -/
inductive FaultInfo where
  /-- ILLEGAL_OP: the word -/
  | word (w : Word)
  /-- TRANSMIT_FAULT: the failed write's `mu` and the count of bytes it sent -/
  | transfer (mu sent : Nat)
  /-- PROTOCOL: `drv` -/
  | driver (drv : Driver)
  /-- FRAME_VIOLATION: `line[CS]` -/
  | level (v : Level)
  /-- PARAM: the offending value -/
  | value (v : Nat)
deriving DecidableEq, Repr

/-- A fault record (R250). -/
structure FaultRecord where
  code : FaultCode
  unit : UnitId
  pc : Nat
  mu : Nat
  info : FaultInfo
deriving DecidableEq, Repr

/-- `U.ticker` (R195). -/
structure Ticker where
  armed : Bool
  period : Half
  k : Nat
deriving DecidableEq, Repr

/-- The timer's pending wait for a unit (R38). -/
inductive Pending where
  | sleep (ms : Half)
  | tick
deriving DecidableEq, Repr

/-! ## Traces (R40) -/

/-- The result of an SPI write (R40). -/
inductive SpiResult where
  | ok
  | transmitFault
deriving DecidableEq, Repr

/-- The result of a frame write (R40). -/
inductive FrameResult where
  | ok
  | pulseFault
deriving DecidableEq, Repr

/-- The wire events (R40). -/
inductive Event where
  | line (line : Line) (v : Level)
  | byte (b : Byte) (cs dc : Level)
  | spiEnd (n : Nat) (r : SpiResult)
  | sleep (ms : Half)
  | tick (k : Nat)
  | frame (pixels : List Pixel)
  | frameEnd (r : FrameResult)
deriving DecidableEq, Repr

/-- One unit: its program (a launch input, R26), its sequencer (R24), the timer's wait for it (R38)
and its trace (R40). -/
structure Seq where
  prog : Program
  pc : Nat
  mu : Nat
  run : Run
  st : Status
  fault : Option FaultRecord
  refused : Bool
  ticker : Ticker
  pending : Option Pending
  trace : List Event
  /-- how often the unit has completed the last operation of its body (the model's own field: it
  counts the checkpoints of R44; log 7) -/
  laps : Nat
deriving DecidableEq, Repr

/-! ## Units D and L and their channels -/

/-- The levels of the four output lines (R32). -/
structure Lines where
  cs : Level
  dc : Level
  rst : Level
  pwr : Level
deriving DecidableEq, Repr

/-- The SPI channel (R34). -/
structure Spi where
  busy : Bool
  q : List Byte
  sent : Nat
deriving DecidableEq, Repr

/-- Unit L's own state (R35). -/
structure Led where
  fb : List Pixel
  c : Byte
  h : Nat
  j : Nat
  pulseFault : Bool
deriving DecidableEq, Repr

/-- The pulse channel (R37). -/
structure Pulse where
  busy : Bool
  snap : List Pixel
deriving DecidableEq, Repr

/-- The machine. `cfg` and each unit's `prog` are launch inputs that no step writes (R6, R26, R75;
log 2); `draw`, `choices` and `drawn` hold the free choices of R21 (log 1). -/
structure State where
  cfg : Config
  /-- unit D's sequencer -/
  d : Seq
  /-- unit L's sequencer -/
  l : Seq
  lines : Lines
  drv : Driver
  /-- `tf_since_init` (R33) -/
  tfSinceInit : Bool
  spi : Spi
  led : Led
  pulse : Pulse
  /-- the choices of the next step -/
  draw : Draw
  /-- the choices of the steps after it, as far as they are given -/
  choices : List Draw
  /-- how many of `Config.freeDraw`'s draws have been taken -/
  drawn : Nat
deriving DecidableEq, Repr

/-! ## How a step can stop -/

/-- Why the model takes no step. The spec's own faults are not these: they are next states (R256). -/
inductive Fault where
  /-- Raised by `step` when no agent has an enabled step: a final state (R43). Safe. -/
  | noEnabledStep
  /-- Raised by a sequencer whose pc is outside its program; no run reaches it (R29: the pc is below
  Lp + Lb). Safe. -/
  | noOperation
  /-- Raised by an operation's meaning when `mu` is outside its micro-operation list; no run reaches
  it (R30: the operation completes when `mu` reaches the length). Safe. -/
  | noMicroOperation
deriving DecidableEq, Repr

/-- Why the model gives an instruction no meaning. -/
inductive Refusal where
  /-- Raised by `exec`'s arm of an instruction that is not modelled, by its mnemonic; no arm raises
  it now. Safe. -/
  | notModelled (mnemonic : String)
deriving DecidableEq, Repr

/-- What a step or a meaning answers. -/
abbrev Result := Host.Outcome State Fault Refusal

/-! ## Reset (R42, R280, R281) -/

/-- The ticker after reset: unarmed with k = 0 (R195); the period of an unarmed ticker is 1 (DESIGN
CHOICE, log 5). -/
def Ticker.atReset : Ticker := ⟨false, 1, 0⟩

/-- A unit after reset with the program the launch hands it (R42, R281). -/
def Seq.atReset (prog : Program) : Seq where
  prog := prog
  pc := 0
  mu := 0
  run := if prog.ops.length = 0 then .done else .running
  st := .ok
  fault := none
  refused := false
  ticker := Ticker.atReset
  pending := none
  trace := []
  laps := 0

/-- The state after reset (R42) for a configuration, the two programs and the drawn level of DC. -/
def State.atReset (cfg : Config) (progD progL : Program) (dc : Level) : State where
  cfg := cfg
  d := Seq.atReset progD
  l := Seq.atReset progL
  lines := ⟨true, dc, false, cfg.pwrReset⟩
  drv := .uninitialized
  tfSinceInit := false
  spi := ⟨false, [], 0⟩
  led := ⟨List.replicate cfg.nPixels Pixel.black, 0, 0, 0, false⟩
  pulse := ⟨false, []⟩
  draw := Config.freeDraw 0
  choices := []
  drawn := 1

/-- The machine right after reset: the reference configuration (log 3), no program in either unit
(log 6), DC at its drawn level (log 4). -/
def State.reset : State :=
  State.atReset Config.reference Program.empty Program.empty Config.dcAtReset

end Sys2Proof.Machine
end

