-- ==== Sys2Proof/Machine/Colour.lean ====
section
/-! DEFINITION. The colour arithmetic and the two animation ticks of unit L's frame source (R210 to
R234): `wheel`, `scale`, `wrap`, and what CHASE_STEP and WHEEL_STEP write. -/

namespace Sys2Proof.Machine

/-- A pixel from three numbers, each its low 8 bits; no colour formula leaves [0, 255] (R212). -/
def pixelOf (r g b : Nat) : Pixel := ⟨BitVec.ofNat 8 r, BitVec.ofNat 8 g, BitVec.ofNat 8 b⟩

/-- The colour wheel (R211): the bands are tested on the inverted position (D21). -/
def wheel (position : Byte) : Pixel :=
  let v := 255 - position.toNat
  if v < 85 then pixelOf (255 - 3 * v) 0 (3 * v)
  else if v < 170 then pixelOf 0 (3 * (v - 85)) (255 - 3 * (v - 85))
  else pixelOf (3 * (v - 170)) (255 - 3 * (v - 170)) 0

/-- One channel of `scale` (R214). -/
def scaleChannel (b : Word) (x : Byte) : Byte := BitVec.ofNat 8 (mulTrunc x.toNat (f32Clamp b))

/-- Brightness scaling (R214). -/
def scale (p : Pixel) (b : Word) : Pixel :=
  ⟨scaleChannel b p.r, scaleChannel b p.g, scaleChannel b p.b⟩

/-- Circular index wrap (R217): the Euclidean remainder on integers, for `length >= 1`. -/
def wrap (index offset : Int) (length : Nat) : Int := (index + offset) % (length : Int)

/-- `wrap` as an index of the frame buffer: it is in [0, length) (R218). -/
def wrapIndex (index : Nat) (offset : Int) (length : Nat) : Nat :=
  (wrap index offset length).toNat

/-- One trailing pixel darkened (R224): 0.5 applied to the stored value. -/
def darken (h n : Nat) (fb : List Pixel) (k : Nat) : List Pixel :=
  let t := wrapIndex h (-(k : Int)) n
  fb.set t (scale (fb.getD t Pixel.black) Config.chaseBrightness)

/-- The trailing offsets `1 .. N_PIXELS - 1` (R224, R227). -/
def trailingOffsets (n : Nat) : List Nat := List.range' 1 (n - 1)

/-- The head colour of a chase tick whose phase counter has become `c` (R224). -/
def headColour (c : Byte) : Pixel := scale (wheel c) Config.chaseBrightness

/-- One tick of the chase animation (R224): phase counter, head pixel, trailing pixels, head index. -/
def chaseTick (n : Nat) (led : Led) : Led :=
  let c := led.c + Config.chaseStep
  let headed := led.fb.set led.h (headColour c)
  { led with
    c := c
    fb := (trailingOffsets n).foldl (darken led.h n) headed
    h := wrapIndex led.h 1 n }

/-- The wheel position of pixel `i` (R230, R231): multiplication first, then integer division. -/
def wheelPosition (n j i : Nat) : Byte := BitVec.ofNat 8 ((i * 256 / n + j) % 256)

/-- The frame a wheel tick computes (R230). -/
def wheelFrame (n : Nat) (brightness : Word) (j : Nat) : List Pixel :=
  (List.range n).map fun i => scale (wheel (wheelPosition n j i)) brightness

/-- One tick of the wheel animation (R230). -/
def wheelTick (n : Nat) (brightness : Word) (led : Led) : Led :=
  { led with
    fb := wheelFrame n brightness led.j
    j := (led.j + 1) % Config.wheelCycle }

end Sys2Proof.Machine
end

