-- ==== Sys2Proof/Machine/Flags.lean ====
section
/-! DEFINITION. The block has no arithmetic flags (R39). Its flags are the status `st`, the fault
record, and the sticky marks `refused`, `pulse_fault` and `tf_since_init` (R33, R39, R41): which
outcome a fault code has, and what each completion writes to them. -/

namespace Sys2Proof.Machine

/-- The code numbers of R251. -/
def FaultCode.number : FaultCode → Nat
  | .illegalOp => 1
  | .transmitFault => 2
  | .protocol => 3
  | .frameViolation => 4
  | .param => 5
  | .pulseFault => 6

/-- Whether a fault of this code halts its unit (R256). -/
def FaultCode.halts (cfg : Config) : FaultCode → Bool
  | .illegalOp | .protocol | .frameViolation | .param => true
  | .transmitFault => cfg.onTransmitFault == .halts
  | .pulseFault => false

/-- Writing the fault record (R250): only when none is there, the first fault is kept (R41). -/
def Seq.record (u : UnitId) (code : FaultCode) (info : FaultInfo) (q : Seq) : Seq :=
  match q.fault with
  | some _ => q
  | none => { q with fault := some ⟨code, u, q.pc, q.mu, info⟩ }

/-- The sticky `pulse_fault` after a frame's result (R173): set by PulseFault, never cleared (R41). -/
def Led.noteFrame (r : FrameResult) (led : Led) : Led :=
  match r with
  | .ok => led
  | .pulseFault => { led with pulseFault := true }

/-- The result of a frame (R172): a fault only when the configuration admits one. -/
def frameResult (cfg : Config) (draw : Draw) : FrameResult :=
  if cfg.pulseFaults && draw.pulseFault then .pulseFault else .ok

/-- The driver state after a transmit fault inside a display operation (R146). -/
def Driver.afterFault : Driver → Driver
  | .initializing => .uninitialized
  | .uninitialized => .uninitialized
  | .ready => .ready

/-- Legality of DISP_INIT (R142): `Uninitialized`, or `Ready` after a reported fault (R147). -/
def initLegal (drv : Driver) (tfSinceInit : Bool) : Bool :=
  match drv with
  | .uninitialized => true
  | .ready => tfSinceInit
  | .initializing => false

/-- Legality of DISP_CMD and DISP_DATA (R144). -/
def displayLegal (drv : Driver) : Bool := drv == .ready

end Sys2Proof.Machine
end

