-- ==== Sys2Proof/Machine/Operands.lean ====
section
/-! DEFINITION. What an operation's operands stand for: the list of micro-operations it is made of
(R30). The three display operations are composite (R141, R143, R150); every other operation is one
micro-operation. -/

namespace Sys2Proof.Machine

/-- The micro-operations (42_display_protocol.md, R30). -/
inductive Micro where
  /-- `uLINE(L, v)`: a line write -/
  | line (line : Line) (v : Level)
  /-- `uSPI(bytes)`: an SPI write -/
  | spi (bytes : List Byte)
  /-- `uSLEEP(ms)`: a sleep -/
  | sleep (ms : Half)
  /-- `uDRV(s)`: a write of `drv` -/
  | drv (s : Driver)
  /-- item 11 of DISP_INIT: `uDRV(Ready); tf_since_init <- false` -/
  | drvReady
  /-- a frame write (R171) -/
  | frame
  /-- a tick wait (R197) -/
  | tick
  /-- a ticker start (R196) -/
  | ticker (period : Half)
  /-- a chase tick (R224) -/
  | chase
  /-- a wheel tick (R230) -/
  | wheel
deriving DecidableEq, Repr

/-- What the unit waits for after it has issued an asynchronous micro-operation (R25, R30); an
immediate one has no wait. -/
def Micro.wait : Micro → Option Wait
  | .spi _ => some .spiDone
  | .sleep _ => some .sleepDone
  | .frame => some .frameDone
  | .tick => some .tickDone
  | .line _ _ | .drv _ | .drvReady | .ticker _ | .chase | .wheel => none

/-- The list of DISP_CMD (R143). -/
def commandItems (op : Byte) (payload : List Byte) : List Micro :=
  [.line .cs Config.csActive, .line .dc Config.dcCommand, .spi [op], .line .dc Config.dcData,
    .spi payload, .line .cs (!Config.csActive)]

/-- The list of DISP_DATA (R150): DC before CS. -/
def dataItems (payload : List Byte) : List Micro :=
  [.line .dc Config.dcData, .line .cs Config.csActive, .spi payload,
    .line .cs (!Config.csActive)]

/-- Items 1 and 2 of DISP_INIT, left out when `INIT_RESET_MODE = PreAsserted` (R141; log 9). -/
def resetPulseItems (cfg : Config) : List Micro :=
  match cfg.initResetMode with
  | .pulse => [.line .rst Config.rstActive, .sleep cfg.tRstLowMs]
  | .preAsserted => []

/-- The list of DISP_INIT (R141); its items 5 to 10 are those of DISP_CMD (R145). -/
def initItems (cfg : Config) : List Micro :=
  [.drv .initializing] ++ resetPulseItems cfg
    ++ [.line .rst (!Config.rstActive), .sleep cfg.tSettleMs]
    ++ commandItems Config.initOpcode [] ++ [.drvReady]

/-- The micro-operation list of an operation (R30). -/
def itemsOf (cfg : Config) : Instr → List Micro
  | .lineSet line level => [.line line level]
  | .spiWrite bytes => [.spi bytes]
  | .dispInit => initItems cfg
  | .dispCmd op payload => commandItems op payload
  | .dispData payload => dataItems payload
  | .pulseWrite _ => [.frame]
  | .sleep ms => [.sleep ms]
  | .tickerSet period => [.ticker period]
  | .tickerNext => [.tick]
  | .chaseStep => [.chase]
  | .wheelStep => [.wheel]

/-- The composite operations (R30): those with a fault path of their own (R127, R146). -/
def isComposite : Instr → Bool
  | .dispInit | .dispCmd _ _ | .dispData _ => true
  | .lineSet _ _ | .spiWrite _ | .pulseWrite _ | .sleep _ | .tickerSet _ | .tickerNext
  | .chaseStep | .wheelStep => false

end Sys2Proof.Machine
end

