-- ==== Sys2Proof/Machine/Ops.lean ====
section
/-! DEFINITION. The named operations the meanings share: a unit's sequencer (advance, completion,
waiting), raising a fault (R250, R256) and a refusal (R257), line writes, starting each agent, and
running one micro-operation (R28 to R30). -/

namespace Sys2Proof.Machine

/-! ## A unit's sequencer -/

/-- `emit E` (R9): append to the unit's trace. -/
def Seq.emit (e : Event) (q : Seq) : Seq := { q with trace := q.trace ++ [e] }

/-- The new pc of a completed operation (R29). -/
def Seq.advance (q : Seq) : Seq :=
  if q.pc + 1 < q.prog.ops.length then { q with pc := q.pc + 1 }
  else if 0 < q.prog.body.length then
    { q with pc := q.prog.prologue.length, laps := q.laps + 1 }
  else { q with run := .done }

/-- An operation completes (R29) and writes its status (R39). -/
def Seq.complete (st : Status) (q : Seq) : Seq := { q with mu := 0, st := st }.advance

/-- A micro-operation of a list of `n` is finished: the next one, or the operation completes in the
same step (R30). -/
def Seq.finish (n : Nat) (q : Seq) : Seq :=
  if q.mu + 1 < n then { q with mu := q.mu + 1 } else q.complete .ok

/-- `U.run <- Waiting(w)` (R30). -/
def Seq.await (w : Wait) (q : Seq) : Seq := { q with run := .waiting w }

/-- What an agent's completion step does to the unit that waits for it (R30). -/
def Seq.wake (n : Nat) (q : Seq) : Seq := { q with run := .running }.finish n

/-- `raise F(info)` (R9, R250) and the outcome of the fault (R256): the block's one exception entry.
There is no vector, no saved pc but the record's, and no mode change (R259); there is no return from
it (R260). A PULSE_FAULT never writes the record (R251). -/
def Seq.raise (cfg : Config) (u : UnitId) (code : FaultCode) (info : FaultInfo) (q : Seq) : Seq :=
  if code.halts cfg then { q.record u code info with run := .halted }
  else
    match code with
    | .transmitFault => (q.record u code info).complete .transmitFault
    | .illegalOp | .protocol | .frameViolation | .param | .pulseFault => q

/-- `refuse(reason)` (R257). -/
def Seq.refuse (q : Seq) : Seq := { q with refused := true, run := .halted }

/-- The unit's pending wait (R38). -/
def Seq.setPending (p : Option Pending) (q : Seq) : Seq := { q with pending := p }

/-- `U.ticker <- (armed, period, k = 0)` (R196). -/
def Seq.armTicker (period : Half) (q : Seq) : Seq := { q with ticker := ⟨true, period, 0⟩ }

/-- The next tick is taken (R197). -/
def Seq.countTick (q : Seq) : Seq := { q with ticker := { q.ticker with k := q.ticker.k + 1 } }

/-- `op(U.pc)` (R26, R28). -/
def Seq.op? (q : Seq) : Option Op := q.prog.ops[q.pc]?

/-! ## The two sequencers in the machine -/

/-- A unit's sequencer. -/
def State.seq (s : State) : UnitId → Seq
  | .d => s.d
  | .l => s.l

/-- The machine with one unit's sequencer replaced. -/
def State.setSeq (u : UnitId) (q : Seq) (s : State) : State :=
  match u with
  | .d => { s with d := q }
  | .l => { s with l := q }

/-- The machine with one unit's sequencer changed. -/
def State.mapSeq (u : UnitId) (f : Seq → Seq) (s : State) : State := s.setSeq u (f (s.seq u))

/-- The unit whose operation the step runs: the one the moving agent acts for (R20). -/
def State.actor (s : State) : UnitId := s.draw.agent.owner

/-- The operation a unit is at, if its word decodes for it (R28): the word was checked when the
operation started, so this finds the same operation again. -/
def State.current (u : UnitId) (s : State) : Option Instr :=
  match (s.seq u).op? with
  | none => none
  | some op =>
    match op.decode u with
    | .ok i => some i
    | .illegalOp => none
    | .payloadLength => none

/-- The micro-operation list of the operation a unit is at (R30). -/
def State.items (u : UnitId) (s : State) : List Micro :=
  match s.current u with
  | some i => itemsOf s.cfg i
  | none => []

/-- `raise` for a unit (R250, R256). -/
def State.raise (u : UnitId) (code : FaultCode) (info : FaultInfo) (s : State) : State :=
  s.mapSeq u (Seq.raise s.cfg u code info)

/-- `refuse` for a unit (R257). -/
def State.refuse (u : UnitId) (s : State) : State := s.mapSeq u Seq.refuse

/-- `emit` for a unit (R9). -/
def State.emit (u : UnitId) (e : Event) (s : State) : State := s.mapSeq u (Seq.emit e)

/-- An agent's completion step wakes the unit that waits (R30). -/
def State.wake (u : UnitId) (s : State) : State :=
  s.mapSeq u (Seq.wake (s.items u).length)

/-! ## Lines (R32, R111) -/

/-- The level of a line. -/
def Lines.get (ls : Lines) : Line → Level
  | .cs => ls.cs
  | .dc => ls.dc
  | .rst => ls.rst
  | .pwr => ls.pwr

/-- The lines with one of them driven to a level. -/
def Lines.drive (line : Line) (v : Level) (ls : Lines) : Lines :=
  match line with
  | .cs => { ls with cs := v }
  | .dc => { ls with dc := v }
  | .rst => { ls with rst := v }
  | .pwr => { ls with pwr := v }

/-- `line[L] <- v` (R9): the level, and `Line(L, v)` in unit D's trace. -/
def State.driveLine (line : Line) (v : Level) (s : State) : State :=
  { s with lines := s.lines.drive line v }.emit .d (.line line v)

/-! ## Starting an agent (R30) -/

/-- The issue step of an SPI write (R121). -/
def State.startSpi (bytes : List Byte) (s : State) : State :=
  { s with spi := ⟨true, bytes, 0⟩ }.mapSeq .d (Seq.await .spiDone)

/-- The issue step of a frame write (R171): the snapshot of FB. -/
def State.startFrame (s : State) : State :=
  { s with pulse := ⟨true, s.led.fb⟩ }.mapSeq .l (Seq.await .frameDone)

/-- The issue step of a sleep (R191). -/
def State.startSleep (u : UnitId) (ms : Half) (s : State) : State :=
  s.mapSeq u fun q => (q.setPending (some (.sleep ms))).await .sleepDone

/-- The issue step of a tick wait (R197). -/
def State.startTick (u : UnitId) (s : State) : State :=
  s.mapSeq u fun q => (q.setPending (some .tick)).await .tickDone

/-! ## Micro-operations (R30) -/

/-- The effect of a micro-operation in the sequencer step of unit `u`: all of an immediate one, the
issue of an asynchronous one. Lines, `drv` and the SPI channel are unit D's, FB and the pulse channel
unit L's (R27). -/
def perform (u : UnitId) (m : Micro) (s : State) : State :=
  match m with
  | .line line v => s.driveLine line v
  | .spi bytes => s.startSpi bytes
  | .sleep ms => s.startSleep u ms
  | .drv d => { s with drv := d }
  | .drvReady => { s with drv := .ready, tfSinceInit := false }
  | .frame => s.startFrame
  | .tick => s.startTick u
  | .ticker period => s.mapSeq u (Seq.armTicker period)
  | .chase => { s with led := chaseTick s.cfg.nPixels s.led }
  | .wheel => { s with led := wheelTick s.cfg.nPixels s.cfg.wheelBrightness s.led }

/-- One sequencer step of an operation with the list `items` (R28, R30): micro-operation `mu`, and,
where it is immediate, its finish in the same step. -/
def runItems (u : UnitId) (items : List Micro) (s : State) : Result :=
  match items[(s.seq u).mu]? with
  | none => .fault .noMicroOperation
  | some m =>
    .next (if m.wait.isSome then perform u m s
      else (perform u m s).mapSeq u (Seq.finish items.length))

/-- An operation with a check (R255): made when the operation is fetched (`mu = 0`, R28); where it
fails the fault is raised before any effect. -/
def runChecked (u : UnitId) (legal : Bool) (code : FaultCode) (info : FaultInfo)
    (items : List Micro) (s : State) : Result :=
  if (s.seq u).mu = 0 ∧ legal = false then .next (s.raise u code info)
  else runItems u items s

end Sys2Proof.Machine
end

