-- ==== Sys2Proof/Machine/Channels.lean ====
section
/-! DEFINITION. The steps of the agents that are not sequencers: the SPI channel (R123 to R127), the
pulse channel (R172, R173) and the timer (R191, R197). -/

namespace Sys2Proof.Machine

/-! ## SPI channel -/

/-- The transmit step (R123) for the head `b` and the tail `rest` of `spi.q`. -/
def State.spiTransmit (b : Byte) (rest : List Byte) (s : State) : State :=
  { s with spi := ⟨s.spi.busy, rest, s.spi.sent + 1⟩ }.emit .d (.byte b s.lines.cs s.lines.dc)

/-- The completion step, success (R124). -/
def State.spiComplete (s : State) : State :=
  ({ s with spi := { s.spi with busy := false } }.emit .d (.spiEnd s.spi.sent .ok)).wake .d

/-- The fault path of a composite operation (R146). -/
def State.faultPath (s : State) : State :=
  { s.driveLine .cs s.draw.csLevel with
    tfSinceInit := true
    drv := s.drv.afterFault }

/-- Delivery of a TransmitFault (R127): the fault path where the operation is composite, then the
outcome of the fault (R256). -/
def State.deliverFault (s : State) : State :=
  let info := FaultInfo.transfer s.d.mu s.spi.sent
  match s.current .d with
  | some i => (if isComposite i then s.faultPath else s).raise .d .transmitFault info
  | none => s.raise .d .transmitFault info

/-- The completion step, fault (R125). -/
def State.spiFail (s : State) : State :=
  ({ s with spi := { s.spi with busy := false, q := [] } }.mapSeq .d fun q =>
    { q.emit (.spiEnd s.spi.sent .transmitFault) with run := .running }).deliverFault

/-- The SPI channel's step while it is busy: the drawn fault (R125), else a byte (R123) or the end
(R124). -/
def State.spiStep (s : State) : State :=
  if s.draw.spiFault then s.spiFail
  else
    match s.spi.q with
    | b :: rest => s.spiTransmit b rest
    | [] => s.spiComplete

/-! ## Pulse channel -/

/-- The events of a frame's end (R172): on Ok the frame, on PulseFault the frame or nothing. -/
def frameEvents (r : FrameResult) (sent : Bool) (snap : List Pixel) : List Event :=
  match r with
  | .ok => [.frame snap, .frameEnd .ok]
  | .pulseFault => (if sent then [.frame snap] else []) ++ [.frameEnd .pulseFault]

/-- The pulse channel's step while it is busy (R172, R173). -/
def State.pulseStep (s : State) : State :=
  let r := frameResult s.cfg s.draw
  ({ s with pulse := ⟨false, []⟩, led := s.led.noteFrame r }.mapSeq .l fun q =>
    (frameEvents r s.draw.frameSent s.pulse.snap).foldl (fun q e => q.emit e) q).wake .l

/-! ## Timer -/

/-- The timer's step for a unit's pending wait (R191, R197); with no wait it has none. -/
def State.timerStep (u : UnitId) (s : State) : State :=
  match (s.seq u).pending with
  | none => s
  | some (.sleep ms) =>
    (s.mapSeq u fun q => (q.emit (.sleep ms)).setPending none).wake u
  | some .tick =>
    (s.mapSeq u fun q => (q.countTick.emit (.tick (q.ticker.k + 1))).setPending none).wake u

end Sys2Proof.Machine
end

