-- ==== Sys2Proof/Machine/DisplayFamily.lean ====
section
/-! DEFINITION. The display command/data protocol operations (R140 to R155). -/

namespace Sys2Proof.Machine

/-- DISP_INIT (R141): PROTOCOL where R142 forbids it, else its next micro-operation. -/
def execDispInit (s : State) : Result :=
  runChecked .d (initLegal s.drv s.tfSinceInit) .protocol (.driver s.drv) (initItems s.cfg) s

/-- DISP_CMD (R143): PROTOCOL unless `drv = Ready` (R144), else its next micro-operation. -/
def execDispCmd (op : Byte) (payload : List Byte) (s : State) : Result :=
  runChecked .d (displayLegal s.drv) .protocol (.driver s.drv) (commandItems op payload) s

/-- DISP_DATA (R150): PROTOCOL unless `drv = Ready` (R144), else its next micro-operation. -/
def execDispData (payload : List Byte) (s : State) : Result :=
  runChecked .d (displayLegal s.drv) .protocol (.driver s.drv) (dataItems payload) s

end Sys2Proof.Machine
end

