-- ==== Sys2Proof/Machine/FrameFamily.lean ====
section
/-! DEFINITION. The frame-source operations of unit L (R224, R230). -/

namespace Sys2Proof.Machine

/-- CHASE_STEP (R224). -/
def execChaseStep (s : State) : Result := runItems .l [.chase] s

/-- WHEEL_STEP (R230). -/
def execWheelStep (s : State) : Result := runItems .l [.wheel] s

end Sys2Proof.Machine
end

