-- ==== Sys2Proof/Machine/LineFamily.lean ====
section
/-! DEFINITION. Line control (R110 to R115). -/

namespace Sys2Proof.Machine

/-- LINE_SET drives one line of unit D to a level (R111). -/
def execLineSet (line : Line) (level : Level) (s : State) : Result :=
  runItems .d [.line line level] s

end Sys2Proof.Machine
end

