-- ==== Sys2Proof/Machine/PulseFamily.lean ====
section
/-! DEFINITION. PULSE_WRITE (R171); the channel's own step is in Machine/Channels.lean. -/

namespace Sys2Proof.Machine

/-- PULSE_WRITE (R171): PARAM unless the count is N_PIXELS, else the issue step. -/
def execPulseWrite (count : Half) (s : State) : Result :=
  runChecked .l (count.toNat == s.cfg.nPixels) .param (.value count.toNat) [.frame] s

end Sys2Proof.Machine
end

