-- ==== Sys2Proof/Machine/SpiFamily.lean ====
section
/-! DEFINITION. The raw SPI write (R121, R122); the channel's own steps are in Machine/Channels.lean. -/

namespace Sys2Proof.Machine

/-- The frame check of a raw write (R122): one or more bytes need CS asserted (R126: none do not). -/
def frameOpen (bytes : List Byte) (lines : Lines) : Bool :=
  bytes.isEmpty || lines.cs == Config.csActive

/-- SPI_WRITE (R121): FRAME_VIOLATION where the frame check fails, else the issue step. -/
def execSpiWrite (bytes : List Byte) (s : State) : Result :=
  runChecked .d (frameOpen bytes s.lines) .frameViolation (.level s.lines.cs) [.spi bytes] s

end Sys2Proof.Machine
end

