-- ==== Sys2Proof/Machine/TimerFamily.lean ====
section
/-! DEFINITION. The timer operations of either unit (R190 to R199); the timer's own steps are in
Machine/Channels.lean. -/

namespace Sys2Proof.Machine

/-- SLEEP (R191): the issue step. -/
def execSleep (ms : Half) (s : State) : Result := runItems s.actor [.sleep ms] s

/-- TICKER_SET (R196): PARAM for a period of 0, else the ticker is armed anew. -/
def execTickerSet (period : Half) (s : State) : Result :=
  runChecked s.actor (period.toNat != 0) .param (.value period.toNat) [.ticker period] s

/-- TICKER_NEXT (R197): PARAM on an unarmed ticker, else the issue step. -/
def execTickerNext (s : State) : Result :=
  runChecked s.actor (s.seq s.actor).ticker.armed .param (.value 0) [.tick] s

end Sys2Proof.Machine
end

