-- ==== Sys2Proof/Machine/Dispatch.lean ====
section
/-! DEFINITION. One sequencer step of an operation: one arm per constructor of Instr. -/

namespace Sys2Proof.Machine

def exec (i : Instr) (s : State) : Host.Outcome State Fault Refusal :=
  match i with
  | .lineSet line level => Sys2Proof.Machine.execLineSet line level s
  | .spiWrite bytes => Sys2Proof.Machine.execSpiWrite bytes s
  | .dispInit => Sys2Proof.Machine.execDispInit s
  | .dispCmd op payload => Sys2Proof.Machine.execDispCmd op payload s
  | .dispData payload => Sys2Proof.Machine.execDispData payload s
  | .pulseWrite count => Sys2Proof.Machine.execPulseWrite count s
  | .sleep ms => Sys2Proof.Machine.execSleep ms s
  | .tickerSet period => Sys2Proof.Machine.execTickerSet period s
  | .tickerNext => Sys2Proof.Machine.execTickerNext s
  | .chaseStep => Sys2Proof.Machine.execChaseStep s
  | .wheelStep => Sys2Proof.Machine.execWheelStep s

end Sys2Proof.Machine
end

