-- ==== Sys2Proof/Machine/Sequencer.lean ====
section
/-! DEFINITION. Which agent moves, what its step does, and how the next step's choices are taken
(R20, R21, R28). -/

namespace Sys2Proof.Machine

/-- Fetch, decode and execute (R28, R81): the sequencer step of a unit. -/
def State.unitStep (u : UnitId) (s : State) : Result :=
  match (s.seq u).op? with
  | none => .fault .noOperation
  | some op =>
    match op.decode u with
    | .ok i => exec i s
    | .illegalOp => .next (s.raise u .illegalOp (.word op.word))
    | .payloadLength => .next (s.refuse u)

/-- Whether an agent has an enabled step (R20, R25, R36). -/
def State.enabled (s : State) : Agent → Bool
  | .unit u => (s.seq u).run == .running
  | .spi => s.spi.busy
  | .pulse => s.pulse.busy
  | .timer u => (s.seq u).pending.isSome

/-- All agents, in the cyclic order in which the draw's agent is passed over (DESIGN CHOICE, log 1). -/
def agentCycle : List Agent :=
  [.unit .d, .spi, .timer .d, .unit .l, .pulse, .timer .l]

/-- An agent's place in the cycle. -/
def Agent.place : Agent → Nat
  | .unit .d => 0
  | .spi => 1
  | .timer .d => 2
  | .unit .l => 3
  | .pulse => 4
  | .timer .l => 5

/-- The agents from the drawn one on, once round the cycle. -/
def agentsFrom (a : Agent) : List Agent := agentCycle.rotateLeft (Agent.place a)

/-- The agent that moves: the drawn one if it has an enabled step, else the next in the cycle that
has one; none in a final state (R20, R43; log 1). -/
def State.mover (s : State) : Option Agent := (agentsFrom s.draw.agent).find? s.enabled

/-- The drawn agent is the one that moves. -/
def State.withAgent (a : Agent) (s : State) : State := { s with draw := { s.draw with agent := a } }

/-- One step of an agent (R20). -/
def State.agentStep (a : Agent) (s : State) : Result :=
  match a with
  | .unit u => s.unitStep u
  | .spi => .next s.spiStep
  | .pulse => .next s.pulseStep
  | .timer u => .next (s.timerStep u)

/-- The choices of the next step (R21; log 1): the next one given, else the next free draw. -/
def State.nextDraw (s : State) : State :=
  match s.choices with
  | c :: rest => { s with draw := c, choices := rest }
  | [] => { s with draw := Config.freeDraw s.drawn, drawn := s.drawn + 1 }

/-- A result with the choices of the next step taken. -/
def afterStep : Result → Result
  | .next s => .next s.nextDraw
  | .fault r => .fault r
  | .refused r => .refused r

/-- The step of the agent that moves. -/
def State.move (s : State) : Result :=
  match s.mover with
  | none => .fault .noEnabledStep
  | some a => afterStep ((s.withAgent a).agentStep a)

/-- The machine with one operation as the whole program of a unit, about to run it: its pc and mu are
at its start, it is Running, and it is the agent that moves (log 6). -/
def State.loadOp (u : UnitId) (op : Op) (s : State) : State :=
  (s.mapSeq u fun q =>
    { q with prog := ⟨[op], []⟩, pc := 0, mu := 0, run := .running }).withAgent (.unit u)

end Sys2Proof.Machine
end

