-- ==== Sys2Proof/Machine/Step.lean ====
section
/-! DEFINITION. One step of the machine: one step of one agent (R20). -/

namespace Sys2Proof.Machine

/-- One step: the agent that moves takes its step (R20, R43). -/
def step (s : State) : Host.Outcome State Fault Refusal := s.move

/-- The machine with one table word, and a payload of zeros where it takes one, as the program of a
unit that may execute it, so that the next step runs it (log 6). -/
def State.withFetchWord (s : State) (nbits w : Nat) : State :=
  s.loadOp (unitForWord (tableWord nbits w)) (zeroPayloadOp (tableWord nbits w))

end Sys2Proof.Machine
end

