-- ==== Sys2Proof/Machine/Assembler.lean ====
section
/-! DEFINITION. The assembler of R92 to R94: program text to a program. It is no part of the machine's
step. -/

namespace Sys2Proof.Machine

/-- The tokens of a line: words and the marks of a byte list. -/
inductive Token where
  | word (w : List Char)
  | comma
  | openList
  | closeList
deriving DecidableEq, Repr

/-- Put a finished word, if there is one, before the tokens. -/
def flushWord (w : List Char) (rest : List Token) : List Token :=
  if w.isEmpty then rest else .word w.reverse :: rest

/-- The tokens of a line; `;` starts a comment that runs to the end of the line (R92). `w` is the
word being read, last character first. -/
def tokens (w : List Char) : List Char → List Token
  | [] => flushWord w []
  | c :: cs =>
    if c == ';' then flushWord w []
    else if c == ' ' || c == '\t' || c == '\r' then flushWord w (tokens [] cs)
    else if c == ',' then flushWord w (.comma :: tokens [] cs)
    else if c == '[' then flushWord w (.openList :: tokens [] cs)
    else if c == ']' then flushWord w (.closeList :: tokens [] cs)
    else tokens (c :: w) cs

/-- The lines of a text; `line` is the line being read, last character first. -/
def textLines (line : List Char) : List Char → List (List Char)
  | [] => [line.reverse]
  | c :: cs => if c == '\n' then line.reverse :: textLines [] cs else textLines (c :: line) cs

/-- The value of a digit in base 16. -/
def digitValue (c : Char) : Option Nat :=
  let n := c.toNat
  if 48 ≤ n ∧ n ≤ 57 then some (n - 48)
  else if 65 ≤ n ∧ n ≤ 70 then some (n - 55)
  else if 97 ≤ n ∧ n ≤ 102 then some (n - 87)
  else none

/-- The number of a list of digits in a base, after the digits read so far. -/
def digitsValue (base : Nat) : List Char → Nat → Option Nat
  | [], acc => some acc
  | c :: cs, acc =>
    match digitValue c with
    | some d => if d < base then digitsValue base cs (acc * base + d) else none
    | none => none

/-- A number, decimal or with `0x` hexadecimal (R92). -/
def numberOf (w : List Char) : Option Nat :=
  match w with
  | '0' :: 'x' :: c :: cs => digitsValue 16 (c :: cs) 0
  | c :: cs => digitsValue 10 (c :: cs) 0
  | [] => none

/-- A number below `2 ^ n`. -/
def fieldOf (n : Nat) (w : List Char) : Option (BitVec n) :=
  match numberOf w with
  | some v => if v < 2 ^ n then some (BitVec.ofNat n v) else none
  | none => none

/-- The bytes of a list after its first, to the end of the line. -/
def moreBytes : List Token → Option (List Byte)
  | [.closeList] => some []
  | .comma :: .word w :: rest =>
    match fieldOf 8 w, moreBytes rest with
    | some b, some bs => some (b :: bs)
    | _, _ => none
  | _ => none

/-- A byte list `[b0, b1, ...]` to the end of the line (R92). -/
def byteList : List Token → Option (List Byte)
  | [.openList, .closeList] => some []
  | .openList :: .word w :: rest =>
    match fieldOf 8 w, moreBytes rest with
    | some b, some bs => some (b :: bs)
    | _, _ => none
  | _ => none

/-- A line's name (R86, R92). -/
def lineOf (w : List Char) : Option Line :=
  if w == "CS".toList then some .cs
  else if w == "DC".toList then some .dc
  else if w == "RST".toList then some .rst
  else if w == "PWR".toList then some .pwr
  else none

/-- A level, 0 or 1 (R92). -/
def levelOf (w : List Char) : Option Level :=
  match numberOf w with
  | some 0 => some false
  | some 1 => some true
  | _ => none

/-- The pseudo-operations by name (R93). -/
def pseudoOf (w : List Char) : Option Pseudo :=
  if w == "CS.ASSERT".toList then some .csAssert
  else if w == "CS.DEASSERT".toList then some .csDeassert
  else if w == "DC.CMD".toList then some .dcCmd
  else if w == "DC.DATA".toList then some .dcData
  else if w == "RST.ASSERT".toList then some .rstAssert
  else if w == "RST.RELEASE".toList then some .rstRelease
  else if w == "SLPOUT".toList then some .slpout
  else if w == "FRAME".toList then some .frame
  else none

/-- An operation that takes no operand (R92, R93). -/
def bareInstr (cfg : Config) (w : List Char) : Option Instr :=
  if w == "DISP.INIT".toList then some .dispInit
  else if w == "TICKER.NEXT".toList then some .tickerNext
  else if w == "CHASE.STEP".toList then some .chaseStep
  else if w == "WHEEL.STEP".toList then some .wheelStep
  else (pseudoOf w).map (Pseudo.expand cfg)

/-- An operation with one number (R92). -/
def numberInstr (w n : List Char) : Option Instr :=
  if w == "PULSE.WRITE".toList then (fieldOf 16 n).map .pulseWrite
  else if w == "SLEEP".toList then (fieldOf 16 n).map .sleep
  else if w == "TICKER.SET".toList then (fieldOf 16 n).map .tickerSet
  else none

/-- An operation with a byte list alone (R92). -/
def listInstr (w : List Char) (list : List Token) : Option Instr :=
  if w == "SPI.WRITE".toList then (byteList list).map .spiWrite
  else if w == "DISP.DATA".toList then (byteList list).map .dispData
  else none

/-- An operation with a first operand and more after a comma (R92). -/
def pairInstr (w a : List Char) (rest : List Token) : Option Instr :=
  if w == "LINE.SET".toList then
    match lineOf a, rest with
    | some line, [.word v] => (levelOf v).map (.lineSet line)
    | _, _ => none
  else if w == "DISP.CMD".toList then
    match fieldOf 8 a, byteList rest with
    | some op, some payload => some (.dispCmd op payload)
    | _, _ => none
  else none

/-- The operation of a line's tokens; none where the line is not one of R92's or R93's forms, or its
payload is too long for its word. -/
def instrOf (cfg : Config) (line : List Token) : Option Instr :=
  let i := match line with
    | [.word w] => bareInstr cfg w
    | [.word w, .word n] => numberInstr w n
    | .word w :: .openList :: rest => listInstr w (.openList :: rest)
    | .word w :: .word a :: .comma :: rest => pairInstr w a rest
    | _ => none
  i.filter Instr.wf

/-- The program of the lines, `inBody` saying which list is being filled (R94). -/
def assembleLines (cfg : Config) (inBody : Bool) : List (List Char) → Option Program
  | [] => some Program.empty
  | line :: rest =>
    match tokens [] line with
    | [] => assembleLines cfg inBody rest
    | ts =>
      if ts == [.word ".prologue".toList] then assembleLines cfg false rest
      else if ts == [.word ".body".toList] then assembleLines cfg true rest
      else
        match instrOf cfg ts, assembleLines cfg inBody rest with
        | some i, some p =>
          some (if inBody then ⟨p.prologue, encode i :: p.body⟩
            else ⟨encode i :: p.prologue, p.body⟩)
        | _, _ => none

/-- Program text to a program (R92 to R94); none where a line is not one of the forms. -/
def assemble (cfg : Config) (text : String) : Option Program :=
  assembleLines cfg false (textLines [] text.toList)

end Sys2Proof.Machine
end

