-- ==== Sys2Proof/Machine/Launch.lean ====
section
/-! DEFINITION. The launch (R27, R257, R271, R284): what the host supplies, what is refused, and the
state in which the run starts. -/

namespace Sys2Proof.Machine

/-- What the host supplies for the configuration (R284): a value, or none, for each OPEN parameter
of R7, and the parameters R7 gives a value that a launch may set otherwise. -/
structure Supplied where
  nPixels : Option Nat
  tRstLowMs : Option Half
  wheelBrightness : Option Word
  tChaseMs : Option Half
  pwrReset : Option Level
  spiMode : Option SpiMode
  spiClockHz : Option Nat
  pulseTiming : Option PulseTiming
  clockWidth : Option Nat
  initResetMode : InitResetMode
  tSettleMs : Half
  onTransmitFault : OnTransmitFault
  pulseFaults : Bool
deriving DecidableEq, Repr

/-- A configuration the model gives a meaning to (R257). The range `1..65535` of N_PIXELS holds its upper
end (DESIGN CHOICE, log 12). -/
def configOk (cfg : Config) : Bool :=
  decide (1 ≤ cfg.nPixels) && decide (cfg.nPixels ≤ 65535) && !f32IsNaN cfg.wheelBrightness
    && decide (200 ≤ cfg.tSettleMs.toNat) && decide (1 ≤ cfg.tChaseMs.toNat)

/-- The configuration of what is supplied; none where an OPEN parameter has no value (R257). -/
def Supplied.config (p : Supplied) : Option Config := do
  let nPixels ← p.nPixels
  let tRstLowMs ← p.tRstLowMs
  let wheelBrightness ← p.wheelBrightness
  let tChaseMs ← p.tChaseMs
  let pwrReset ← p.pwrReset
  let spiMode ← p.spiMode
  let spiClockHz ← p.spiClockHz
  let pulseTiming ← p.pulseTiming
  let clockWidth ← p.clockWidth
  return {
    nPixels := nPixels
    initResetMode := p.initResetMode
    tRstLowMs := tRstLowMs
    tSettleMs := p.tSettleMs
    onTransmitFault := p.onTransmitFault
    pulseFaults := p.pulseFaults
    wheelBrightness := wheelBrightness
    tChaseMs := tChaseMs
    pwrReset := pwrReset
    spiBitOrder := .msbFirst
    spiMode := spiMode
    spiClockHz := spiClockHz
    pixelWireOrder := .grb
    pulseBitOrder := .msbFirst
    pulseTiming := pulseTiming
    clockWidth := clockWidth }

/-- A launch-level refusal (R257): both units are refused before any step. The configuration and the
levels of the refused block mean nothing; the reference configuration stands in (log 11). -/
def refusedLaunch (progD progL : Program) (dc : Level) : State :=
  let s := State.atReset Config.reference progD progL dc
  { s with
    d := { s.d with refused := true, run := .halted }
    l := { s.l with refused := true, run := .halted } }

/-- The state in which a run starts (R280, R284): the reset state of a configuration that is not
refused, with the drawn level of DC (R42). -/
def launch (p : Supplied) (progD progL : Program) (dc : Level) : State :=
  match p.config with
  | none => refusedLaunch progD progL dc
  | some cfg =>
    if configOk cfg then State.atReset cfg progD progL dc else refusedLaunch progD progL dc

end Sys2Proof.Machine
end

