-- ==== Sys2Proof/Machine/WireFormat.lean ====
section
/-! DEFINITION. The wire formats the spec settles: a command frame and a data frame as trace events
(R88, R89), the bring-up trace (R155), and how bytes and frames go onto the SPI data line and the
pulse wire (R63, R176, R177). No step of the machine reads the bit orders or the timings: the trace
records whole bytes and pixels (R40). -/

namespace Sys2Proof.Machine

/-! ## Trace sequences -/

/-- The `Byte` events of a fault-free write with given line levels (R123). -/
def byteEvents (bytes : List Byte) (cs dc : Level) : List Event :=
  bytes.map fun b => .byte b cs dc

/-- The trace of a fault-free write (R123, R124). -/
def writeEvents (bytes : List Byte) (cs dc : Level) : List Event :=
  byteEvents bytes cs dc ++ [.spiEnd bytes.length .ok]

/-- A command frame (R88). -/
def commandFrame (op : Byte) (payload : List Byte) : List Event :=
  [.line .cs Config.csActive, .line .dc Config.dcCommand]
    ++ writeEvents [op] Config.csActive Config.dcCommand
    ++ [.line .dc Config.dcData]
    ++ writeEvents payload Config.csActive Config.dcData
    ++ [.line .cs (!Config.csActive)]

/-- A data frame (R89): DC before CS. -/
def dataFrame (payload : List Byte) : List Event :=
  [.line .dc Config.dcData, .line .cs Config.csActive]
    ++ writeEvents payload Config.csActive Config.dcData
    ++ [.line .cs (!Config.csActive)]

/-- The reset pulse of a bring-up, absent in `PreAsserted` mode (R141; log 9). -/
def resetPulseEvents (cfg : Config) : List Event :=
  match cfg.initResetMode with
  | .pulse => [.line .rst Config.rstActive, .sleep cfg.tRstLowMs]
  | .preAsserted => []

/-- The trace of a fault-free DISP_INIT (R155). -/
def bringUpEvents (cfg : Config) : List Event :=
  resetPulseEvents cfg ++ [.line .rst (!Config.rstActive), .sleep cfg.tSettleMs]
    ++ commandFrame Config.initOpcode []

/-- The sleeps of a trace, in milliseconds: a lower bound on the time it took (R193, R302). -/
def sleptMs (trace : List Event) : Nat :=
  (trace.map fun e => match e with
    | .sleep ms => ms.toNat
    | .line _ _ | .byte _ _ _ | .spiEnd _ _ | .tick _ | .frame _ | .frameEnd _ => 0).sum

/-! ## Bits on the wires -/

/-- The bits of a byte in wire order (R63, R176). -/
def byteBits (order : BitOrder) (b : Byte) : List Bool :=
  match order with
  | .lsbFirst => (List.range 8).map b.getLsbD
  | .msbFirst => (List.range 8).map b.getMsbD

/-- The bits of an SPI write on the data line (R62, R63). -/
def spiWireBits (cfg : Config) (bytes : List Byte) : List Bool :=
  bytes.flatMap (byteBits cfg.spiBitOrder)

/-- The channels of a pixel in wire order (R176). -/
def pixelBytes (order : PixelOrder) (p : Pixel) : List Byte :=
  match order with
  | .rgb => [p.r, p.g, p.b]
  | .rbg => [p.r, p.b, p.g]
  | .grb => [p.g, p.r, p.b]
  | .gbr => [p.g, p.b, p.r]
  | .brg => [p.b, p.r, p.g]
  | .bgr => [p.b, p.g, p.r]

/-- The bits of one pixel on the pulse wire (R176). -/
def pixelBits (cfg : Config) (p : Pixel) : List Bool :=
  (pixelBytes cfg.pixelWireOrder p).flatMap (byteBits cfg.pulseBitOrder)

/-- The bits of a frame on the pulse wire, pixel 0 first (R65, R90, R176). -/
def frameBits (cfg : Config) (pixels : List Pixel) : List Bool := pixels.flatMap (pixelBits cfg)

/-- One bit's pulse: the high time, then the low time, in nanoseconds (R177). -/
def bitPulse (t : PulseTiming) (bit : Bool) : Nat × Nat :=
  if bit then (t.t1h, t.t1l) else (t.t0h, t.t0l)

/-- The duration of a frame in nanoseconds, its latch time included (R177, R295, R303). -/
def frameNs (cfg : Config) (pixels : List Pixel) : Nat :=
  ((frameBits cfg pixels).map fun bit =>
    (bitPulse cfg.pulseTiming bit).1 + (bitPulse cfg.pulseTiming bit).2).sum + cfg.pulseTiming.latch

end Sys2Proof.Machine
end

