-- ==== Sys2Proof/Safety.lean ====
section
/-! DEFINITION. What claims about the machine are stated in: final and faulted final states (R43),
checkpoints (R44), fairness (R46), the fault-free premises (R252), each unit's view of the state
(R27), and the invariant of every run. -/

namespace Sys2Proof.Machine

/-! ## Runs -/

/-- One step of the machine from `s` to `t`. -/
def Steps (s t : State) : Prop := step s = .next t

/-- `t` comes after `s` in some number of steps (R43: a run is a sequence of agent steps). -/
def Reaches (s t : State) : Prop := Relation.ReflTransGen Steps s t

/-- An endless run: one step from each state to the next. -/
def IsRun (r : Nat → State) : Prop := ∀ n, Steps (r n) (r (n + 1))

/-- Weak fairness (R46): an agent that has an enabled step from some point on without end is, after
that point, the one that moves. -/
def Fair (r : Nat → State) : Prop :=
  ∀ a n, (∀ m, n ≤ m → (r m).enabled a = true) → ∃ m, n ≤ m ∧ (r m).mover = some a

/-! ## Final states and checkpoints -/

/-- A unit that has stopped (R25, R43). -/
def Seq.stopped (q : Seq) : Prop := q.run = .done ∨ q.run = .halted

/-- A final state (R43). -/
def State.IsFinal (s : State) : Prop :=
  (∀ u, (s.seq u).stopped) ∧ s.spi.busy = false ∧ s.pulse.busy = false
    ∧ ∀ u, (s.seq u).pending = none

/-- Neither a fault recorded nor a refusal (R43). -/
def State.Clean (s : State) : Prop :=
  ∀ u, (s.seq u).fault = none ∧ (s.seq u).refused = false

/-- A faulted final state (R43). -/
def State.FaultedFinal (s : State) : Prop := s.IsFinal ∧ ¬ s.Clean

/-- `t` is checkpoint `k` of unit `u` in the run from the launch state `s` (R44). With a body: the step
into `t` is the one in which the unit completes the last operation of its body for the `k`-th time.
With an empty body: checkpoint 0 is the state in which the unit becomes `Done`, which is the launch
state itself where the prologue is empty too (R29). -/
def Checkpoint (s : State) (u : UnitId) (k : Nat) (t : State) : Prop :=
  if (s.seq u).prog.body = [] then
    k = 0 ∧ (t.seq u).run = .done ∧
      (t = s ∨ ∃ b, Reaches s b ∧ Steps b t ∧ (b.seq u).run ≠ .done)
  else ∃ b, Reaches s b ∧ Steps b t ∧ (b.seq u).laps + 1 = k ∧ (t.seq u).laps = k

/-! ## Fault-free premises (R252) -/

/-- The next step of `s` is not the SPI channel's fault step (R125). -/
def State.NoSpiFaultNow (s : State) : Prop := s.mover = some .spi → s.draw.spiFault = false

/-- The next step of `s` is not one in which a frame's draw is PulseFault (R172); where PULSE_FAULTS is
false it never is. -/
def State.NoPulseFaultNow (s : State) : Prop :=
  s.mover = some .pulse → frameResult s.cfg s.draw = .ok

/-- `SPI_FAULT_FREE` for the run from `s`: the step of R125 is never taken. -/
def State.SpiFaultFree (s : State) : Prop := ∀ t, Reaches s t → t.NoSpiFaultNow

/-- `PULSE_FAULT_FREE` for the run from `s`: every draw of R172 is Ok. -/
def State.PulseFaultFree (s : State) : Prop := ∀ t, Reaches s t → t.NoPulseFaultNow

/-- `SPI_FAULT_FREE` for the first `n` steps of the run from `s` alone. -/
def State.SpiFaultFreeFor (s : State) (n : Nat) : Prop :=
  ∀ k, k < n → ∀ t, core.run k s = .next t → t.NoSpiFaultNow

/-- `PULSE_FAULT_FREE` for the first `n` steps of the run from `s` alone. -/
def State.PulseFaultFreeFor (s : State) (n : Nat) : Prop :=
  ∀ k, k < n → ∀ t, core.run k s = .next t → t.NoPulseFaultNow

/-! ## Each unit's side of the state (R27) -/

/-- What unit D owns, with the configuration: its sequencer, the lines, the driver state and the SPI
channel. -/
structure ViewD where
  cfg : Config
  d : Seq
  lines : Lines
  drv : Driver
  tfSinceInit : Bool
  spi : Spi
deriving DecidableEq, Repr

/-- What unit L owns, with the configuration. -/
structure ViewL where
  cfg : Config
  l : Seq
  led : Led
  pulse : Pulse
deriving DecidableEq, Repr

/-- Unit D's side of the state. -/
def State.viewD (s : State) : ViewD := ⟨s.cfg, s.d, s.lines, s.drv, s.tfSinceInit, s.spi⟩

/-- Unit L's side of the state. -/
def State.viewL (s : State) : ViewL := ⟨s.cfg, s.l, s.led, s.pulse⟩

/-- Unit `u`'s side of the state is the same in `t` as in `s`. -/
def State.SameSide (u : UnitId) (s t : State) : Prop :=
  match u with
  | .d => t.viewD = s.viewD
  | .l => t.viewL = s.viewL

/-- A run from `s` to `t` in which unit `u`'s agents take one step for each entry of the list, with
the outcomes the entry gives, and the other unit's agents take any number of steps in between. -/
inductive UnitMoves (u : UnitId) : List (Bool × Level × Bool × Bool) → State → State → Prop where
  | refl (s : State) : UnitMoves u [] s s
  | own {cs : List (Bool × Level × Bool × Bool)} {s t r : State} {a : Agent} :
      s.mover = some a → a.owner = u → Steps s t → UnitMoves u cs t r →
      UnitMoves u (s.draw.outcomes :: cs) s r
  | other {cs : List (Bool × Level × Bool × Bool)} {s t r : State} {a : Agent} :
      s.mover = some a → a.owner ≠ u → Steps s t → UnitMoves u cs t r → UnitMoves u cs s r

/-- The other unit. -/
def otherUnit : UnitId → UnitId
  | .d => .l
  | .l => .d

/-- No agent of unit `u` has an enabled step (R20, R25). -/
def State.Quiet (s : State) (u : UnitId) : Prop :=
  (s.seq u).run ≠ .running ∧ (s.seq u).pending = none
    ∧ (u = .d → s.spi.busy = false) ∧ (u = .l → s.pulse.busy = false)

/-- Unit `u` is about to start the operation `i` (R28), with none of its own agents busy and the
other unit quiet, so that every step is one of unit `u`'s until the operation ends. -/
structure State.StartsAlone (s : State) (u : UnitId) (i : Instr) : Prop where
  current : s.current u = some i
  atStart : (s.seq u).mu = 0
  running : (s.seq u).run = .running
  noWait : (s.seq u).pending = none
  spiIdle : s.spi.busy = false
  pulseIdle : s.pulse.busy = false
  alone : s.Quiet (otherUnit u)

/-- Everything but unit `u`'s sequencer and the draws is the same in `t` as in `s`. -/
def State.SameBut (u : UnitId) (s t : State) : Prop :=
  t.cfg = s.cfg ∧ t.lines = s.lines ∧ t.drv = s.drv ∧ t.tfSinceInit = s.tfSinceInit
    ∧ t.spi = s.spi ∧ t.led = s.led ∧ t.pulse = s.pulse ∧ ∀ v, v ≠ u → t.seq v = s.seq v

/-- Unit `u` has halted with the fault `F(info)` and no other effect (R250, R255, R256): the record is
written unless one is there, and nothing else of the unit or of the machine differs. -/
def State.HaltedBy (u : UnitId) (code : FaultCode) (info : FaultInfo) (s t : State) : Prop :=
  t.seq u = { s.seq u with
      run := .halted
      fault := some ((s.seq u).fault.getD ⟨code, u, (s.seq u).pc, (s.seq u).mu, info⟩) }
    ∧ s.SameBut u t

/-! ## The invariant of every run -/

/-- The last level that a list of micro-operations has driven a line to. -/
def lastDriven (line : Line) : List Micro → Option Level
  | [] => none
  | m :: rest =>
    match lastDriven line rest, m with
    | some v, _ => some v
    | none, .line k v => if k = line then some v else none
    | none, _ => none

/-- What every run keeps of a unit. -/
structure UnitInv (s : State) (u : UnitId) : Prop where
  /-- a unit that has not stopped is at an operation of its program (R29) -/
  inProgram : ¬ (s.seq u).stopped → (s.seq u).pc < (s.seq u).prog.ops.length
  /-- a unit whose program has ended has ended its last operation (R29) -/
  doneAtStart : (s.seq u).run = .done → (s.seq u).mu = 0
  /-- a running unit is at the start of an operation, or inside its list (R28, R30) -/
  insideList : (s.seq u).run = .running → 0 < (s.seq u).mu → (s.seq u).mu < (s.items u).length
  /-- a waiting unit waits for what its current micro-operation has started (R30, R36) -/
  waitsForItem : ∀ w, (s.seq u).run = .waiting w →
    ∃ m, (s.items u)[(s.seq u).mu]? = some m ∧ m.wait = some w
  /-- only the SPI channel's owner waits for it, and exactly while it is busy (R36) -/
  spiWait : (s.seq u).run = .waiting .spiDone ↔ u = .d ∧ s.spi.busy = true
  /-- only the pulse channel's owner waits for it, and exactly while it is busy (R36) -/
  frameWait : (s.seq u).run = .waiting .frameDone ↔ u = .l ∧ s.pulse.busy = true
  /-- a sleeping unit has a pending sleep, and no other unit has (R36, R38) -/
  sleepWait : (s.seq u).run = .waiting .sleepDone ↔ ∃ ms, (s.seq u).pending = some (.sleep ms)
  /-- a unit waiting for a tick has a pending tick, and no other unit has (R36, R38) -/
  tickWait : (s.seq u).run = .waiting .tickDone ↔ (s.seq u).pending = some .tick
  /-- a refused unit has halted (R257) -/
  refusedHalted : (s.seq u).refused = true → (s.seq u).run = .halted
  /-- a halted unit has a fault record or a refusal mark (R25) -/
  haltedWhy : (s.seq u).run = .halted → (s.seq u).fault ≠ none ∨ (s.seq u).refused = true
  /-- a ticker's period is at least 1 (R195) -/
  period : 1 ≤ (s.seq u).ticker.period.toNat

/-- What every run keeps of the machine. -/
structure State.Inv (s : State) : Prop where
  /-- the configuration is not refused (R257) -/
  config : configOk s.cfg = true
  unit : ∀ u, UnitInv s u
  /-- FB holds N_PIXELS pixels (R35) -/
  fbLength : s.led.fb.length = s.cfg.nPixels
  /-- the head index is in [0, N_PIXELS) (R35) -/
  head : s.led.h < s.cfg.nPixels
  /-- the wheel counter is in [0, WHEEL_CYCLE) (R35) -/
  wheel : s.led.j < Config.wheelCycle
  /-- a frame in flight has N_PIXELS pixels (R37); an idle channel holds none (R172) -/
  snap : s.pulse.snap.length = if s.pulse.busy then s.cfg.nPixels else 0
  /-- an idle SPI channel has no byte to send (R124, R125) -/
  spiIdle : s.spi.busy = false → s.spi.q = []
  /-- a busy SPI channel has sent the first `sent` bytes of the write unit D is at (R121, R123) -/
  spiWrite : s.spi.busy = true → ∃ sent,
    (s.items .d)[s.d.mu]? = some (.spi (sent ++ s.spi.q)) ∧ sent.length = s.spi.sent
  /-- a byte is only ever sent with CS asserted (R290) -/
  csAsserted : s.spi.busy = true → s.spi.q ≠ [] → s.lines.cs = Config.csActive
  /-- inside an operation each line holds the level the operation last drove it to (R70, R153) -/
  linesDriven : s.d.run ≠ .halted → ∀ line v,
    lastDriven line ((s.items .d).take s.d.mu) = some v → s.lines.get line = v
  /-- the driver is Initializing exactly inside DISP_INIT (R140, D40) -/
  initializing : s.drv = .initializing ↔
    s.current .d = some .dispInit ∧ 0 < s.d.mu ∧ s.d.run ≠ .halted

end Sys2Proof.Machine
end

