-- ==== Sys2Proof/Certificates/Slice0/Obligations.lean ====
section
/-! DEFINITION. The statements about this model, for the provers. Rules cited as R<n> are those of
spec/; `log n` is notes/assumptions/<n>.md. A statement about an instruction's step gives the whole
next state, so it states its frame too. -/

open Sys2Proof Sys2Proof.Machine

/-! ## Encoding (R80 to R95) -/

/-- R95: each example's assembly text, word and payload stand for the operation, by the decoder, the
encoder and the assembler; the six words R95 lists as illegal decode as illegal. -/
def Obligations.SpecWordsDecode : Prop :=
  (∀ x ∈ ([("LINE.SET CS, 0", .d, 0x01000000, .lineSet .cs false),
      ("LINE.SET DC, 1", .d, 0x01010001, .lineSet .dc true),
      ("LINE.SET RST, 1", .d, 0x01020001, .lineSet .rst true),
      ("LINE.SET PWR, 1", .d, 0x01030001, .lineSet .pwr true),
      ("SPI.WRITE [0x11]", .d, 0x02000001, .spiWrite [0x11]),
      ("DISP.INIT", .d, 0x03000000, .dispInit),
      ("DISP.CMD 0x11, []", .d, 0x04110000, .dispCmd 0x11 []),
      ("DISP.CMD 0xA5, [0x01, 0x02]", .d, 0x04A50002, .dispCmd 0xA5 [0x01, 0x02])] :
        List (String × UnitId × Word × Instr))
      ++ [("DISP.DATA [0xF8, 0x00]", .d, 0x05000002, .dispData [0xF8, 0x00]),
      ("PULSE.WRITE 8", .l, 0x06000008, .pulseWrite 8),
      ("SLEEP 200", .d, 0x070000C8, .sleep 200),
      ("TICKER.SET 100", .l, 0x08000064, .tickerSet 100),
      ("TICKER.SET 10", .d, 0x0800000A, .tickerSet 10),
      ("TICKER.NEXT", .l, 0x09000000, .tickerNext),
      ("CHASE.STEP", .l, 0x0A000000, .chaseStep),
      ("WHEEL.STEP", .l, 0x0B000000, .wheelStep)],
    decode x.2.2.1 x.2.2.2.payload x.2.1 = .ok x.2.2.2
      ∧ encode x.2.2.2 = ⟨x.2.2.1, x.2.2.2.payload⟩
      ∧ assemble Config.reference x.1 = some ⟨[⟨x.2.2.1, x.2.2.2.payload⟩], []⟩) ∧
  ∀ w ∈ ([0x00000000, 0x0C000000, 0x01040001, 0x01000002, 0x03000001, 0x02010000] : List Word),
    ∀ u : UnitId, decode w [] u = .illegalOp

/-- R80, R81, R84: decoding the word of a well-formed operation, on a unit its row lists, gives the
operation back, with every operand. -/
def Obligations.DecodeOfEncode : Prop :=
  ∀ (i : Instr) (u : UnitId), i.wf = true → i.opcode.allows u = true →
    (encode i).decode u = .ok i

/-- R81, R84: a word and payload that decode are the encoding of what they decode to; so no two words
stand for one operation. -/
def Obligations.EncodeOfDecode : Prop :=
  ∀ (w : Word) (payload : List Byte) (u : UnitId) (i : Instr), decode w payload u = .ok i →
    encode i = ⟨w, payload⟩ ∧ i.wf = true ∧ i.opcode.allows u = true

/-- R85: the words that are illegal for a unit are those with an illegal OPC, those whose reserved
bits are not 0, and those of a row that does not list the unit; the all-zero word is one; and a unit
that fetches an illegal word halts with ILLEGAL_OP, recording the word, with no other effect. -/
def Obligations.IllegalWordsHalt : Prop :=
  (∀ (w : Word) (payload : List Byte) (u : UnitId), decode w payload u = .illegalOp ↔
    opcField w = 0x00 ∨ 0x0C ≤ (opcField w).toNat ∨
    ∃ o : Opcode, o.bits = opcField w ∧ (w &&& o.mask ≠ o.matchWord ∨ o.allows u = false)) ∧
  (∀ (payload : List Byte) (u : UnitId), decode 0 payload u = .illegalOp) ∧
  ∀ (s : State) (u : UnitId) (op : Op), s.mover = some (.unit u) → (s.seq u).op? = some op →
    op.decode u = .illegalOp →
    ∃ t, step s = .next t ∧ s.HaltedBy u .illegalOp (.word op.word) t

/-- R61, R81, R257: a word that is legal for the unit is refused exactly where its payload has not
the length its row asks for: IMM for the three payload operations, 0 for the others; and a unit that
fetches such an operation is refused, with no other effect. -/
def Obligations.PayloadLengthRefused : Prop :=
  (∀ (w : Word) (payload : List Byte) (u : UnitId), decode w payload u = .payloadLength ↔
    ∃ o : Opcode, o.bits = opcField w ∧ w &&& o.mask = o.matchWord ∧ o.allows u = true ∧
      payload.length ≠
        if o = .spiWrite ∨ o = .dispCmd ∨ o = .dispData then (immField w).toNat else 0) ∧
  ∀ (s : State) (u : UnitId) (op : Op), s.mover = some (.unit u) → (s.seq u).op? = some op →
    op.decode u = .payloadLength →
    ∃ t, step s = .next t ∧ t.seq u = { s.seq u with refused := true, run := .halted } ∧
      s.SameBut u t

/-- R92, R93, R94: the pseudo-operations expand as R93 lists, each on its own line; comments,
decimal and hexadecimal numbers; the two directives fill the two lists. -/
def Obligations.AssemblerForms : Prop :=
  (∀ x ∈ ([("CS.ASSERT", .lineSet .cs false), ("CS.DEASSERT", .lineSet .cs true),
      ("DC.CMD", .lineSet .dc false), ("DC.DATA", .lineSet .dc true),
      ("RST.ASSERT", .lineSet .rst false), ("RST.RELEASE", .lineSet .rst true),
      ("SLPOUT", .dispCmd 0x11 []), ("FRAME", .pulseWrite 8)] : List (String × Instr)),
    assemble Config.reference x.1 = some ⟨[encode x.2], []⟩) ∧
  assemble Config.reference "SLEEP 0xC8 ; settle\n.body\nTICKER.NEXT\n\nFRAME"
    = some ⟨[encode (.sleep 200)], [encode .tickerNext, encode (.pulseWrite 8)]⟩ ∧
  assemble Config.reference ".body\nCHASE.STEP\n.prologue\nTICKER.SET 100"
    = some ⟨[encode (.tickerSet 100)], [encode .chaseStep]⟩

/-! ## One step of the machine (R20, R28, R29) -/

/-- R20, R28: the step of the agent that moves. A unit's sequencer runs the operation it is at; the
next draw is then taken (log 1). The last clause is for one table word placed by `withFetchWord`
(log 6). -/
def Obligations.StepRunsTheDecodedOperation : Prop :=
  (∀ (s : State) (u : UnitId) (op : Op) (i : Instr), s.mover = some (.unit u) →
    (s.seq u).op? = some op → op.decode u = .ok i →
    step s = afterStep (exec i (s.withAgent (.unit u)))) ∧
  (∀ s : State, s.mover = some .spi → step s = .next (s.withAgent .spi).spiStep.nextDraw) ∧
  (∀ s : State, s.mover = some .pulse → step s = .next (s.withAgent .pulse).pulseStep.nextDraw) ∧
  (∀ (s : State) (u : UnitId), s.mover = some (.timer u) →
    step s = .next ((s.withAgent (.timer u)).timerStep u).nextDraw) ∧
  (∀ (s : State) (nbits w : Nat) (i : Instr), decodeTableWord nbits w = some i →
    step (s.withFetchWord nbits w) = afterStep (exec i (s.withFetchWord nbits w)))

/-- R20, R21: any one agent with an enabled step may take it, none without one does, and any draw may
come next (the form of the draws is the model's, log 1). -/
def Obligations.AnyEnabledAgentMayMove : Prop :=
  (∀ (s : State) (a : Agent), s.enabled a = true → (s.withAgent a).mover = some a) ∧
  (∀ (s : State) (a : Agent), s.mover = some a → s.enabled a = true) ∧
  (∀ s : State, s.mover = none ↔ ∀ a, s.enabled a = false) ∧
  (∀ (s : State) (u : UnitId),
    (s.enabled (.unit u) = true ↔ (s.seq u).run = .running) ∧
    (s.enabled (.timer u) = true ↔ (s.seq u).pending ≠ none)) ∧
  (∀ s : State, (s.enabled .spi = true ↔ s.spi.busy = true) ∧
    (s.enabled .pulse = true ↔ s.pulse.busy = true)) ∧
  ∀ (s : State) (c : Draw) (rest : List Draw), s.choices = c :: rest →
    s.nextDraw = { s with draw := c, choices := rest }

/-- R29: what completing an operation does to the pc, `mu` and `run`; the pc stays below Lp + Lb; an
empty program is Done from launch. (Nothing is said of `laps`, the model's own count, log 7.) -/
def Obligations.AdvanceFollowsTheProgram : Prop :=
  (∀ (q : Seq) (st : Status),
    q.complete st =
      if q.pc + 1 < q.prog.prologue.length + q.prog.body.length then
        { q with mu := 0, st := st, pc := q.pc + 1 }
      else if 0 < q.prog.body.length then
        { q with mu := 0, st := st, pc := q.prog.prologue.length, laps := (q.complete st).laps }
      else { q with mu := 0, st := st, run := .done }) ∧
  (∀ (q : Seq) (st : Status), q.pc < q.prog.prologue.length + q.prog.body.length →
    (q.complete st).pc < q.prog.prologue.length + q.prog.body.length) ∧
  ∀ p : Program, p.prologue.length + p.body.length = 0 → (Seq.atReset p).run = .done

/-- R42: every piece of state after reset, for every configuration, every pair of programs and either
level of DC. -/
def Obligations.ResetState : Prop :=
  ∀ (cfg : Config) (progD progL : Program) (dc : Level),
    let s := State.atReset cfg progD progL dc
    s.lines = ⟨true, dc, false, cfg.pwrReset⟩ ∧
    s.drv = .uninitialized ∧ s.tfSinceInit = false ∧ s.spi = ⟨false, [], 0⟩ ∧
    s.led.fb.length = cfg.nPixels ∧ (∀ i, i < cfg.nPixels → s.led.fb[i]? = some ⟨0, 0, 0⟩) ∧
    s.led.c = 0 ∧ s.led.h = 0 ∧ s.led.j = 0 ∧ s.pulse = ⟨false, []⟩ ∧
    s.led.pulseFault = false ∧
    ∀ u : UnitId, (s.seq u).pc = 0 ∧ (s.seq u).mu = 0 ∧
      (s.seq u).run = (if (s.seq u).prog.prologue.length + (s.seq u).prog.body.length = 0
        then .done else .running) ∧
      (s.seq u).st = .ok ∧ (s.seq u).fault = none ∧ (s.seq u).refused = false ∧
      (s.seq u).ticker.armed = false ∧ (s.seq u).ticker.k = 0 ∧ (s.seq u).pending = none ∧
      (s.seq u).trace = []

/-- R257: what a refusal does to its unit; the mark is never cleared; a payload of the wrong length is
refused when it is fetched; and a launch is refused, both units before any step, exactly where a
parameter marked OPEN has no value or the configuration is one R257 lists. That N_PIXELS = 65535 is
accepted is the model's choice (log 12). -/
def Obligations.Refusals : Prop :=
  (∀ (s : State) (u : UnitId),
    (s.refuse u).seq u = { s.seq u with refused := true, run := .halted } ∧
      s.SameBut u (s.refuse u)) ∧
  (∀ (s t : State) (u : UnitId), step s = .next t → (s.seq u).refused = true →
    (t.seq u).refused = true) ∧
  (∀ (s : State) (u : UnitId) (op : Op), s.mover = some (.unit u) → (s.seq u).op? = some op →
    op.decode u = .payloadLength → step s = .next (s.withAgent (.unit u) |>.refuse u).nextDraw) ∧
  (∀ cfg : Config, configOk cfg = true ↔
    1 ≤ cfg.nPixels ∧ cfg.nPixels ≤ 65535 ∧ f32IsNaN cfg.wheelBrightness = false ∧
      200 ≤ cfg.tSettleMs.toNat ∧ cfg.tChaseMs.toNat ≠ 0) ∧
  (∀ p : Supplied, p.config = none ↔
    p.nPixels = none ∨ p.tRstLowMs = none ∨ p.wheelBrightness = none ∨ p.tChaseMs = none ∨
      p.pwrReset = none ∨ p.spiMode = none ∨ p.spiClockHz = none ∨ p.pulseTiming = none ∨
      p.clockWidth = none) ∧
  ∀ (p : Supplied) (progD progL : Program) (dc : Level),
    (∀ cfg, p.config = some cfg → configOk cfg = true →
      launch p progD progL dc = State.atReset cfg progD progL dc) ∧
    ((p.config = none ∨ ∃ cfg, p.config = some cfg ∧ configOk cfg = false) →
      ∀ u : UnitId, ((launch p progD progL dc).seq u).refused = true ∧
        ((launch p progD progL dc).seq u).run = .halted)

/-! ## What each operation does (R111 to R230) -/

/-- R111, R113: LINE_SET drives its line to its level, appends its event even where the level does
not change, writes `st` OK, advances, and changes nothing else. -/
def Obligations.LineSetDrivesItsLine : Prop :=
  ∀ (line : Line) (v : Level) (s : State), s.d.mu = 0 →
    ∃ t, exec (.lineSet line v) s = .next t ∧ t.lines.get line = v ∧
      (∀ k, k ≠ line → t.lines.get k = s.lines.get k) ∧
      t.d = ({ s.d with trace := s.d.trace ++ [Event.line line v] }).complete .ok ∧
      t = { s with lines := t.lines, d := t.d }

/-- R121: the issue step of SPI_WRITE, where the frame check passes: the channel holds the bytes, and
unit D waits for it. -/
def Obligations.SpiWriteStarts : Prop :=
  ∀ (bytes : List Byte) (s : State), s.d.mu = 0 → (bytes ≠ [] → s.lines.cs = false) →
    exec (.spiWrite bytes) s = .next { s with
      spi := ⟨true, bytes, 0⟩, d := { s.d with run := .waiting .spiDone } }

/-- R141, R143, R150: the first micro-operation of each display operation, where it is legal. -/
def Obligations.DisplayOperationsStart : Prop :=
  (∀ s : State, s.d.mu = 0 →
    (s.drv = .uninitialized ∨ s.drv = .ready ∧ s.tfSinceInit = true) →
    exec .dispInit s = .next { s with drv := .initializing, d := { s.d with mu := 1 } }) ∧
  (∀ (op : Byte) (payload : List Byte) (s : State), s.d.mu = 0 → s.drv = .ready →
    exec (.dispCmd op payload) s = .next { s with
      lines := { s.lines with cs := false },
      d := { s.d with trace := s.d.trace ++ [Event.line .cs false], mu := 1 } }) ∧
  ∀ (payload : List Byte) (s : State), s.d.mu = 0 → s.drv = .ready →
    exec (.dispData payload) s = .next { s with
      lines := { s.lines with dc := true },
      d := { s.d with trace := s.d.trace ++ [Event.line .dc true], mu := 1 } }

/-- R30, R141, R143, R150: the lists of the display operations, written out, and what the step of the
micro-operation at `mu > 0` does: an immediate one happens whole, and `mu` moves on, or, at the end
of the list, the operation completes in the same step; an asynchronous one starts its agent, and unit
D waits. (The list of PreAsserted mode is R141's; log 9.) -/
def Obligations.DisplayOperationsRunTheirLists : Prop :=
  (∀ (cfg : Config) (op : Byte) (p : List Byte),
    itemsOf cfg (.dispCmd op p) =
      [.line .cs false, .line .dc false, .spi [op], .line .dc true, .spi p, .line .cs true] ∧
    itemsOf cfg (.dispData p) = [.line .dc true, .line .cs false, .spi p, .line .cs true] ∧
    (cfg.initResetMode = .pulse → itemsOf cfg .dispInit =
      [.drv .initializing, .line .rst false, .sleep cfg.tRstLowMs, .line .rst true,
        .sleep cfg.tSettleMs, .line .cs false, .line .dc false, .spi [0x11], .line .dc true, .spi [],
        .line .cs true, .drvReady]) ∧
    (cfg.initResetMode = .preAsserted → itemsOf cfg .dispInit =
      [.drv .initializing, .line .rst true, .sleep cfg.tSettleMs, .line .cs false, .line .dc false,
        .spi [0x11], .line .dc true, .spi [], .line .cs true, .drvReady])) ∧
  (∀ (q : Seq) (n : Nat),
    q.finish n = if q.mu + 1 < n then { q with mu := q.mu + 1 } else q.complete .ok) ∧
  ∀ (i : Instr) (s : State), i = .dispInit ∨ (∃ op p, i = .dispCmd op p) ∨ (∃ p, i = .dispData p) →
    0 < s.d.mu →
    (∀ line v, (itemsOf s.cfg i)[s.d.mu]? = some (.line line v) →
      exec i s = .next { s with
        lines := s.lines.drive line v
        d := ({ s.d with trace := s.d.trace ++ [Event.line line v] }).finish (itemsOf s.cfg i).length }) ∧
    (∀ bytes, (itemsOf s.cfg i)[s.d.mu]? = some (.spi bytes) →
      exec i s = .next { s with
        spi := ⟨true, bytes, 0⟩, d := { s.d with run := .waiting .spiDone } }) ∧
    (∀ ms, (itemsOf s.cfg i)[s.d.mu]? = some (.sleep ms) →
      exec i s = .next { s with
        d := { s.d with pending := some (.sleep ms), run := .waiting .sleepDone } }) ∧
    ((itemsOf s.cfg i)[s.d.mu]? = some .drvReady →
      exec i s = .next { s with
        drv := .ready, tfSinceInit := false, d := s.d.finish (itemsOf s.cfg i).length })

/-- R171: the issue step of PULSE_WRITE with the configured pixel count: the channel holds a snapshot
of FB, and unit L waits for it. -/
def Obligations.PulseWriteStarts : Prop :=
  ∀ (count : Half) (s : State), s.l.mu = 0 → count.toNat = s.cfg.nPixels →
    exec (.pulseWrite count) s = .next { s with
      pulse := ⟨true, s.led.fb⟩, l := { s.l with run := .waiting .frameDone } }

/-- R191, R196, R197: the issue step of SLEEP for every duration, and of TICKER_NEXT on an armed
ticker; TICKER_SET with a period of at least 1 arms the ticker anew with k = 0 and completes. The unit
is the one that moves. -/
def Obligations.TimerOperationsStart : Prop :=
  ∀ (u : UnitId) (s : State), s.actor = u → (s.seq u).mu = 0 →
    (∀ ms : Half, exec (.sleep ms) s = .next (s.setSeq u
      { s.seq u with pending := some (.sleep ms), run := .waiting .sleepDone })) ∧
    ((s.seq u).ticker.armed = true → exec .tickerNext s = .next (s.setSeq u
      { s.seq u with pending := some .tick, run := .waiting .tickDone })) ∧
    ∀ period : Half, 1 ≤ period.toNat → exec (.tickerSet period) s = .next (s.setSeq u
      (({ s.seq u with ticker := ⟨true, period, 0⟩ }).complete .ok))

/-- R224, R226, R227: CHASE_STEP advances `c` by 4 modulo 256, writes the head colour at `h`, halves
every other pixel once, advances `h`, and changes nothing else; the pixel behind the new head index
then carries the fresh head colour. -/
def Obligations.ChaseStepComputesItsFrame : Prop :=
  ∀ s : State, s.l.mu = 0 → s.led.fb.length = s.cfg.nPixels → s.led.h < s.cfg.nPixels →
    ∃ t, exec .chaseStep s = .next t ∧
      t.led.c.toNat = (s.led.c.toNat + 4) % 256 ∧ t.led.h = (s.led.h + 1) % s.cfg.nPixels ∧
      t.led.fb.length = s.cfg.nPixels ∧
      t.led.fb[s.led.h]? = some (scale (wheel t.led.c) 0x3F000000) ∧
      (∀ i, i < s.cfg.nPixels → i ≠ s.led.h →
        t.led.fb[i]? = (s.led.fb[i]?).map fun p => scale p 0x3F000000) ∧
      t.led.fb[wrapIndex t.led.h (-1) s.cfg.nPixels]? =
        some (scale (wheel t.led.c) 0x3F000000) ∧
      t = { s with
        led := { s.led with c := t.led.c, h := t.led.h, fb := t.led.fb }, l := s.l.complete .ok }

/-- R230, R231: WHEEL_STEP computes every pixel from its index and `j`, advances `j` modulo 1280, and
changes nothing else; the offsets of the pixels are below 256. -/
def Obligations.WheelStepComputesItsFrame : Prop :=
  ∀ s : State, s.l.mu = 0 →
    ∃ t, exec .wheelStep s = .next t ∧ t.led.fb.length = s.cfg.nPixels ∧
      (∀ i, i < s.cfg.nPixels → i * 256 / s.cfg.nPixels < 256 ∧
        t.led.fb[i]? = some (scale
          (wheel (BitVec.ofNat 8 ((i * 256 / s.cfg.nPixels + s.led.j) % 256)))
          s.cfg.wheelBrightness)) ∧
      t.led.j = (s.led.j + 1) % 1280 ∧
      t = { s with led := { s.led with fb := t.led.fb, j := t.led.j }, l := s.l.complete .ok }

/-- R255, R256: PULSE_WRITE with another pixel count, TICKER_SET with period 0 and TICKER_NEXT on an
unarmed ticker halt their unit with PARAM and the offending value, with no other effect. -/
def Obligations.ParameterChecksHalt : Prop :=
  (∀ (count : Half) (s : State), s.l.mu = 0 → count.toNat ≠ s.cfg.nPixels →
    ∃ t, exec (.pulseWrite count) s = .next t ∧ s.HaltedBy .l .param (.value count.toNat) t) ∧
  ∀ (u : UnitId) (s : State), s.actor = u → (s.seq u).mu = 0 →
    (∃ t, exec (.tickerSet 0) s = .next t ∧ s.HaltedBy u .param (.value 0) t) ∧
    ((s.seq u).ticker.armed = false →
      ∃ t, exec .tickerNext s = .next t ∧ s.HaltedBy u .param (.value 0) t)

/-- R122: a raw write of one or more bytes that finds CS deasserted halts unit D with FRAME_VIOLATION
and sends nothing; a write inside a display operation always finds CS asserted. -/
def Obligations.RawWriteNeedsChipSelect : Prop :=
  (∀ (bytes : List Byte) (s : State), s.d.mu = 0 → bytes ≠ [] → s.lines.cs ≠ Config.csActive →
    ∃ t, exec (.spiWrite bytes) s = .next t ∧
      s.HaltedBy .d .frameViolation (.level s.lines.cs) t) ∧
  ∀ (s : State) (i : Instr) (bytes : List Byte), s.Inv → s.d.run = .running →
    s.current .d = some i → isComposite i = true →
    (s.items .d)[s.d.mu]? = some (.spi bytes) → s.lines.cs = Config.csActive

/-- R126: a raw write of no bytes is performed whatever the level of CS: it starts the channel,
suspends unit D, and ends with SpiEnd(0) and its result; it sends no byte. -/
def Obligations.EmptyWriteIsPerformed : Prop :=
  ∀ (s : State) (c : Draw) (rest : List Draw), s.StartsAlone .d (.spiWrite []) →
    s.choices = c :: rest →
    ∃ m t, step s = .next m ∧ m.d = { s.d with run := .waiting .spiDone } ∧
      m.spi = ⟨true, [], 0⟩ ∧ m.lines = s.lines ∧ step m = .next t ∧ t.spi = ⟨false, [], 0⟩ ∧
      t.lines = s.lines ∧ t.d.run ≠ .waiting .spiDone ∧
      t.d.trace = s.d.trace ++ [Event.spiEnd 0 (if c.spiFault then .transmitFault else .ok)]

/-- R142: DISP_INIT is legal in Uninitialized, and in Ready after a reported fault; otherwise it
raises PROTOCOL with `drv` and has no other effect; Initializing is never seen at this check. -/
def Obligations.InitLegality : Prop :=
  (∀ s : State, s.d.mu = 0 →
    (s.drv = .uninitialized ∨ s.drv = .ready ∧ s.tfSinceInit = true →
      exec .dispInit s = .next { s with drv := .initializing, d := { s.d with mu := 1 } }) ∧
    (¬ (s.drv = .uninitialized ∨ s.drv = .ready ∧ s.tfSinceInit = true) →
      ∃ t, exec .dispInit s = .next t ∧ s.HaltedBy .d .protocol (.driver s.drv) t)) ∧
  ∀ s : State, s.Inv → s.d.run = .running → s.d.mu = 0 → s.drv ≠ .initializing

/-- R144: DISP_CMD and DISP_DATA need `drv = Ready`; otherwise each raises PROTOCOL with `drv` before
its first micro-operation, with no line written and no byte sent. The copy of the command list
inside DISP_INIT is not checked. -/
def Obligations.DisplayNeedsReady : Prop :=
  (∀ (i : Instr) (s : State), (∃ op p, i = .dispCmd op p) ∨ (∃ p, i = .dispData p) → s.d.mu = 0 →
    (s.drv ≠ .ready →
      ∃ t, exec i s = .next t ∧ s.HaltedBy .d .protocol (.driver s.drv) t) ∧
    (s.drv = .ready → ∃ t, exec i s = .next t ∧ t.d.run = s.d.run ∧ t.d.mu = 1 ∧
      t.d.fault = s.d.fault)) ∧
  ∀ s : State, s.d.run = .running → 0 < s.d.mu → s.d.mu < (itemsOf s.cfg .dispInit).length →
    ∃ t, exec .dispInit s = .next t ∧ t.d.run ≠ .halted ∧ t.d.fault = s.d.fault

/-! ## Transfers, waits and faults (R123 to R127, R146, R147, R172, R173, R191, R197) -/

/-- R146, R256: a fault in a write of a display operation: the SpiEnd, the drawn level on CS with its
event, `tf_since_init`, Initializing back to Uninitialized, DC and RST as they were, the record, and
then unit D halts, or completes with TRANSMIT_FAULT and goes on. -/
def Obligations.CompositeFaultPath : Prop :=
  ∀ (s : State) (i : Instr), s.mover = some .spi → s.draw.spiFault = true →
    s.current .d = some i → isComposite i = true →
    ∃ t, step s = .next t ∧
      t.lines = { s.lines with cs := s.draw.csLevel } ∧ t.tfSinceInit = true ∧
      t.drv = (if s.drv = .initializing then .uninitialized else s.drv) ∧
      t.spi = ⟨false, [], s.spi.sent⟩ ∧ t.viewL = s.viewL ∧
      let q := { s.d with
        run := .running
        trace := s.d.trace ++ [Event.spiEnd s.spi.sent .transmitFault, .line .cs s.draw.csLevel]
        fault := some (s.d.fault.getD
          ⟨.transmitFault, .d, s.d.pc, s.d.mu, .transfer s.d.mu s.spi.sent⟩) }
      t.d = match s.cfg.onTransmitFault with
        | .halts => { q with run := .halted }
        | .continues => q.complete .transmitFault

/-- R125, R127, R256: a fault in a raw write: the SpiEnd and the record, then unit D halts, or
completes with TRANSMIT_FAULT and goes on; no line and no driver state changes; what was sent is a
prefix of the bytes. R252: under SPI_FAULT_FREE no run records such an end. -/
def Obligations.RawWriteFault : Prop :=
  (∀ (s : State) (bytes : List Byte), s.mover = some .spi → s.draw.spiFault = true →
    s.current .d = some (.spiWrite bytes) →
    ∃ t, step s = .next t ∧ t.lines = s.lines ∧ t.tfSinceInit = s.tfSinceInit ∧ t.drv = s.drv ∧
      t.spi = ⟨false, [], s.spi.sent⟩ ∧ t.viewL = s.viewL ∧
      let q := { s.d with
        run := .running
        trace := s.d.trace ++ [Event.spiEnd s.spi.sent .transmitFault]
        fault := some (s.d.fault.getD
          ⟨.transmitFault, .d, s.d.pc, s.d.mu, .transfer s.d.mu s.spi.sent⟩) }
      t.d = match s.cfg.onTransmitFault with
        | .halts => { q with run := .halted }
        | .continues => q.complete .transmitFault) ∧
  (∀ (s : State) (bytes : List Byte), s.Inv → s.spi.busy = true →
    s.current .d = some (.spiWrite bytes) →
    s.spi.sent ≤ bytes.length ∧ s.spi.q = bytes.drop s.spi.sent) ∧
  ∀ s t : State, s.SpiFaultFree → Reaches s t →
    (∀ n, Event.spiEnd n .transmitFault ∈ t.d.trace → Event.spiEnd n .transmitFault ∈ s.d.trace) ∧
    (t.tfSinceInit = true → s.tfSinceInit = true)

/-- R147: after a transmit fault in a display operation DISP_INIT is legal again; unit D goes on only
where ON_TRANSMIT_FAULT is Continue; and after a DISP_INIT that succeeds it is not legal. -/
def Obligations.Reinitialization : Prop :=
  (∀ (s t : State) (i : Instr), s.Inv → s.mover = some .spi → s.draw.spiFault = true →
    s.current .d = some i → isComposite i = true → step s = .next t →
    (t.drv = .uninitialized ∨ t.drv = .ready ∧ t.tfSinceInit = true) ∧
    (i = .dispInit → t.drv = .uninitialized) ∧
    (t.d.run ≠ .halted → s.cfg.onTransmitFault = .continues)) ∧
  ∀ (s t : State), s.d.run = .running → s.d.mu + 1 = (itemsOf s.cfg .dispInit).length →
    exec .dispInit s = .next t →
    t.drv = .ready ∧ t.tfSinceInit = false ∧
      ∃ r, exec .dispInit t = .next r ∧ t.HaltedBy .d .protocol (.driver .ready) r

/-- R172, R173: the end of a frame for each draw: the frame and its end; a fault, only where
PULSE_FAULTS admits one, with the frame or without it, sets the sticky `pulse_fault` and nothing else
of the fault state; unit L goes on with its next operation, `st` OK. -/
def Obligations.FrameEnds : Prop :=
  ∀ (s : State) (count : Half), s.mover = some .pulse → s.current .l = some (.pulseWrite count) →
    s.l.mu = 0 →
    ∃ t, step s = .next t ∧ t.viewD = s.viewD ∧ t.pulse = ⟨false, []⟩ ∧
      let fails := s.cfg.pulseFaults = true ∧ s.draw.pulseFault = true
      (fails → t.led = { s.led with pulseFault := true }) ∧ (¬ fails → t.led = s.led) ∧
      ∃ events, t.l =
          ({ s.l with run := .running, trace := s.l.trace ++ events }).complete .ok ∧
        (¬ fails → events = [.frame s.pulse.snap, .frameEnd .ok]) ∧
        (fails → s.draw.frameSent = true →
          events = [.frame s.pulse.snap, .frameEnd .pulseFault]) ∧
        (fails → s.draw.frameSent = false → events = [.frameEnd .pulseFault])

/-- R123, R124, R191, R197: a byte sent, a write that ends well, a sleep that ends and a tick that is
taken, each as one step. (For a display operation `finish` goes on in its list, R30.) -/
def Obligations.AgentsCompleteTheirWork : Prop :=
  (∀ (s : State) (b : Byte) (rest : List Byte), s.mover = some .spi → s.draw.spiFault = false →
    s.spi.q = b :: rest →
    ∃ t, step s = .next t ∧ t.spi = ⟨s.spi.busy, rest, s.spi.sent + 1⟩ ∧
      t.d = { s.d with trace := s.d.trace ++ [Event.byte b s.lines.cs s.lines.dc] } ∧
      t.lines = s.lines ∧ t.drv = s.drv ∧ t.tfSinceInit = s.tfSinceInit ∧ t.viewL = s.viewL) ∧
  (∀ s : State, s.mover = some .spi → s.draw.spiFault = false → s.spi.q = [] →
    ∃ t, step s = .next t ∧ t.spi = ⟨false, [], s.spi.sent⟩ ∧
      t.d = ({ s.d with run := .running, trace := s.d.trace ++ [Event.spiEnd s.spi.sent .ok] }).finish
        (s.items .d).length ∧
      t.lines = s.lines ∧ t.drv = s.drv ∧ t.tfSinceInit = s.tfSinceInit ∧ t.viewL = s.viewL) ∧
  ∀ (s : State) (u : UnitId), s.mover = some (.timer u) →
    (∀ ms, (s.seq u).pending = some (.sleep ms) →
      ∃ t, step s = .next t ∧ s.SameBut u t ∧
        t.seq u = ({ s.seq u with
          run := .running, pending := none, trace := (s.seq u).trace ++ [Event.sleep ms] }).finish
            (s.items u).length) ∧
    ((s.seq u).pending = some .tick →
      ∃ t, step s = .next t ∧ s.SameBut u t ∧
        t.seq u = ({ s.seq u with
          run := .running
          pending := none
          ticker := { (s.seq u).ticker with k := (s.seq u).ticker.k + 1 }
          trace := (s.seq u).trace ++ [Event.tick ((s.seq u).ticker.k + 1)] }).finish
            (s.items u).length)

/-! ## Whole operations on a fault-free channel -/

/-- R121, R123, R124, R62: a raw write of n bytes runs to its end in n + 2 steps: the bytes in list
order with the levels CS and DC have at its start, then SpiEnd, `st` OK, and the advance. -/
def Obligations.SpiWriteCompletes : Prop :=
  ∀ (s : State) (bytes : List Byte), s.StartsAlone .d (.spiWrite bytes) →
    (bytes ≠ [] → s.lines.cs = Config.csActive) → s.SpiFaultFreeFor (bytes.length + 2) →
    ∃ t, core.run (bytes.length + 2) s = .next t ∧
      t.d = ({ s.d with
        trace := s.d.trace ++ bytes.map (fun b => Event.byte b s.lines.cs s.lines.dc)
          ++ [Event.spiEnd bytes.length .ok] }).complete .ok ∧
      t.lines = s.lines ∧ t.spi = ⟨false, [], bytes.length⟩ ∧ t.drv = s.drv ∧
      t.tfSinceInit = s.tfSinceInit ∧ t.viewL = s.viewL

/-- R88, R143, R149, R152: from any level of CS, DISP_CMD sends one command frame and completes. -/
def Obligations.DispCmdSendsACommandFrame : Prop :=
  ∀ (s : State) (op : Byte) (payload : List Byte), s.StartsAlone .d (.dispCmd op payload) →
    s.drv = .ready → s.SpiFaultFreeFor (payload.length + 9) →
    ∃ t, core.run (payload.length + 9) s = .next t ∧
      t.d = ({ s.d with
        trace := s.d.trace
          ++ [Event.line .cs false, .line .dc false, .byte op false false, .spiEnd 1 .ok, .line .dc true]
          ++ payload.map (fun b => Event.byte b false true)
          ++ [Event.spiEnd payload.length .ok, .line .cs true] }).complete .ok ∧
      t.lines = { s.lines with cs := true, dc := true } ∧ t.spi = ⟨false, [], payload.length⟩ ∧
      t.drv = .ready ∧ t.tfSinceInit = s.tfSinceInit ∧ t.viewL = s.viewL

/-- R89, R150, R152: from any level of CS, DISP_DATA sends one data frame and completes. -/
def Obligations.DispDataSendsADataFrame : Prop :=
  ∀ (s : State) (payload : List Byte), s.StartsAlone .d (.dispData payload) →
    s.drv = .ready → s.SpiFaultFreeFor (payload.length + 5) →
    ∃ t, core.run (payload.length + 5) s = .next t ∧
      t.d = ({ s.d with
        trace := s.d.trace ++ [Event.line .dc true, .line .cs false]
          ++ payload.map (fun b => Event.byte b false true)
          ++ [Event.spiEnd payload.length .ok, .line .cs true] }).complete .ok ∧
      t.lines = { s.lines with cs := true, dc := true } ∧ t.spi = ⟨false, [], payload.length⟩ ∧
      t.drv = .ready ∧ t.tfSinceInit = s.tfSinceInit ∧ t.viewL = s.viewL

/-- R141, R145, R154, R155: a legal DISP_INIT brings the display up and completes, in either reset
mode; its trace is R155's, without the reset pulse in PreAsserted mode (log 9). -/
def Obligations.DispInitBringsUp : Prop :=
  ∀ s : State, s.StartsAlone .d .dispInit →
    (s.drv = .uninitialized ∨ s.drv = .ready ∧ s.tfSinceInit = true) →
    let steps := if s.cfg.initResetMode = .pulse then 17 else 14
    s.SpiFaultFreeFor steps →
    ∃ t, core.run steps s = .next t ∧
      t.d = ({ s.d with
        trace := s.d.trace
          ++ (if s.cfg.initResetMode = InitResetMode.pulse then
            [Event.line .rst false, .sleep s.cfg.tRstLowMs] else [])
          ++ [Event.line .rst true, .sleep s.cfg.tSettleMs, .line .cs false, .line .dc false,
            .byte 0x11 false false, .spiEnd 1 .ok, .line .dc true, .spiEnd 0 .ok, .line .cs true]
        }).complete .ok ∧
      t.lines = { s.lines with cs := true, dc := true, rst := true } ∧ t.drv = .ready ∧
      t.tfSinceInit = false ∧ t.spi = ⟨false, [], 0⟩ ∧ t.viewL = s.viewL

/-- R191, R192, R197, R198: SLEEP, for 0 ms too, and TICKER_NEXT take two steps, and change nothing
but their unit's sequencer; a tick is counted once. -/
def Obligations.TimerWaitsComplete : Prop :=
  (∀ (s : State) (u : UnitId) (ms : Half), s.StartsAlone u (.sleep ms) →
    ∃ t, core.run 2 s = .next t ∧ s.SameBut u t ∧
      t.seq u = ({ s.seq u with trace := (s.seq u).trace ++ [Event.sleep ms] }).complete .ok) ∧
  ∀ (s : State) (u : UnitId), s.StartsAlone u .tickerNext → (s.seq u).ticker.armed = true →
    ∃ t, core.run 2 s = .next t ∧ s.SameBut u t ∧
      t.seq u = ({ s.seq u with
        ticker := { (s.seq u).ticker with k := (s.seq u).ticker.k + 1 }
        trace := (s.seq u).trace ++ [Event.tick ((s.seq u).ticker.k + 1)] }).complete .ok

/-- R171, R174, R175: on a fault-free pulse channel PULSE_WRITE takes two steps, and the frame it
emits is FB as it is, pixel for pixel. R252: under PULSE_FAULT_FREE no run sets `pulse_fault`. -/
def Obligations.PulseWriteEmitsTheFrame : Prop :=
  (∀ (s : State) (count : Half), s.StartsAlone .l (.pulseWrite count) →
    count.toNat = s.cfg.nPixels → s.PulseFaultFreeFor 2 →
    ∃ t, core.run 2 s = .next t ∧
      t.l = ({ s.l with
        trace := s.l.trace ++ [Event.frame s.led.fb, .frameEnd .ok] }).complete .ok ∧
      t.led = s.led ∧ t.pulse = ⟨false, []⟩ ∧ t.viewD = s.viewD) ∧
  ∀ s t : State, s.PulseFaultFree → Reaches s t →
    (Event.frameEnd .pulseFault ∈ t.l.trace → Event.frameEnd .pulseFault ∈ s.l.trace) ∧
    t.led.pulseFault = s.led.pulseFault

/-- What no sequencer step of a display operation changes (R114, R140, R150): PWR, unit L's side, the
ticker, the program and the draws; outside DISP_INIT also RST, the driver state and the timer's wait;
the trace gains at most one Line event; a fault is recorded only where nothing else happens. -/
def Obligations.DisplayOperationsFrame : Prop :=
  ∀ (i : Instr) (s t : State), isComposite i = true → exec i s = .next t →
    t.viewL = s.viewL ∧ t.lines.pwr = s.lines.pwr ∧ t.draw = s.draw ∧ t.choices = s.choices ∧
    t.drawn = s.drawn ∧ t.d.prog = s.d.prog ∧ t.d.ticker = s.d.ticker ∧
    t.d.refused = s.d.refused ∧ (t.d.st = s.d.st ∨ t.d.st = .ok) ∧
    (i ≠ .dispInit → t.lines.rst = s.lines.rst ∧ t.drv = s.drv ∧
      t.tfSinceInit = s.tfSinceInit ∧ t.d.pending = s.d.pending) ∧
    (t.d.trace = s.d.trace ∧ t.lines = s.lines ∨
      ∃ line v, t.d.trace = s.d.trace ++ [Event.line line v] ∧ t.lines = s.lines.drive line v ∧
        t.spi = s.spi) ∧
    (t.d.fault = s.d.fault ∨ s.HaltedBy .d .protocol (.driver s.drv) t)

/-! ## Colour arithmetic and animation (R211 to R232) -/

/-- R212: in each band the exact integer value of every channel is in [0, 255], with the bounds R212
gives, so keeping its low 8 bits and clamping it to [0, 255] both leave it as it is; `wheel` is that
value. -/
def Obligations.WheelStaysInRange : Prop :=
  ∀ position : Byte,
    let v : Int := 255 - position.toNat
    let exact : Int × Int × Int :=
      if v < 85 then (255 - 3 * v, 0, 3 * v)
      else if v < 170 then (0, 3 * (v - 85), 255 - 3 * (v - 85))
      else (3 * (v - 170), 255 - 3 * (v - 170), 0)
    (v < 85 → 3 * v ≤ 252 ∧ 3 ≤ 255 - 3 * v) ∧
    (85 ≤ v → v < 170 → 3 * (v - 85) ≤ 252 ∧ 3 ≤ 255 - 3 * (v - 85)) ∧
    (170 ≤ v → 3 * (v - 170) ≤ 255 ∧ 0 ≤ 255 - 3 * (v - 170)) ∧
    (∀ x ∈ [exact.1, exact.2.1, exact.2.2],
      0 ≤ x ∧ x ≤ 255 ∧ x % 256 = x ∧ max 0 (min 255 x) = x) ∧
    ((wheel position).r.toNat : Int) = exact.1 ∧ ((wheel position).g.toNat : Int) = exact.2.1 ∧
    ((wheel position).b.toNat : Int) = exact.2.2

/-- R213: the sum of the channels, the zeros, cycle closure, and the run red, green, blue, red. -/
def Obligations.WheelProperties : Prop :=
  (∀ position : Byte,
    let p := wheel position
    p.r.toNat + p.g.toNat + p.b.toNat = 255 ∧
    (p.r = 0 ∨ p.g = 0 ∨ p.b = 0) ∧
    ([p.r, p.g, p.b].count 0 =
      if position = 0 ∨ position = 255 ∨ position = 170 ∨ position = 85 then 2 else 1)) ∧
  wheel 0 = ⟨255, 0, 0⟩ ∧ wheel 255 = ⟨255, 0, 0⟩ ∧ wheel 85 = ⟨0, 255, 0⟩ ∧
  wheel 170 = ⟨0, 0, 255⟩ ∧
  ∀ position : Byte,
    let n := position.toNat
    let p := wheel position
    (n ≤ 85 → p.r.toNat = 255 - 3 * n ∧ p.g.toNat = 3 * n ∧ p.b.toNat = 0) ∧
    (85 ≤ n → n ≤ 170 →
      p.r.toNat = 0 ∧ p.g.toNat = 255 - 3 * (n - 85) ∧ p.b.toNat = 3 * (n - 85)) ∧
    (170 ≤ n → p.r.toNat = 3 * (n - 170) ∧ p.g.toNat = 0 ∧ p.b.toNat = 255 - 3 * (n - 170))

/-- R216: `scale` by 1.0, by 0.0, by 0.5, and by 0.5 any number of times. -/
def Obligations.ScaleExactCases : Prop :=
  (∀ p : Pixel, scale p 0x3F800000 = p) ∧
  (∀ p : Pixel, scale p 0x00000000 = ⟨0, 0, 0⟩) ∧
  (∀ p : Pixel, scale p 0x3F000000 = ⟨p.r >>> 1, p.g >>> 1, p.b >>> 1⟩) ∧
  ∀ (k : Nat) (p : Pixel),
    (fun p => scale p 0x3F000000)^[k] p = ⟨p.r >>> k, p.g >>> k, p.b >>> k⟩

/-- R215: a factor above 1.0, +infinity too, acts as 1.0; a negative one, -0.0 and -infinity too, acts
as 0.0; a NaN WHEEL_BRIGHTNESS is refused; no channel rises; a product just below an integer can round
up to it. The value of a finite factor is its mantissa times a power of 2. -/
def Obligations.ScaleCornerCases : Prop :=
  (∀ (p : Pixel) (b : Word), b.msb = false → f32Exponent b < 255 →
    1 < ((f32Value b).mant : ℚ) * 2 ^ (f32Value b).exp → scale p b = scale p 0x3F800000) ∧
  (∀ p : Pixel, scale p 0x7F800000 = scale p 0x3F800000) ∧
  (∀ (p : Pixel) (b : Word), b.msb = true → f32IsNaN b = false →
    scale p b = scale p 0x00000000) ∧
  (∀ cfg : Config, f32IsNaN cfg.wheelBrightness = true → configOk cfg = false) ∧
  (∀ (p : Pixel) (b : Word), (scale p b).r ≤ p.r ∧ (scale p b).g ≤ p.g ∧ (scale p b).b ≤ p.b) ∧
  scale ⟨100, 0, 0⟩ 0x3C23D70A = ⟨1, 0, 0⟩

/-- R11, R214: rounding to binary32 keeps at most 24 significant bits and no bit below 2 ^ -149, drops
no more bits than that asks for, and takes the nearer neighbour, the even one on a tie. -/
def Obligations.RoundingIsToNearestEven : Prop :=
  ∀ x : Scaled,
    let y := roundToF32 x
    ∃ d : Nat, y.exp = x.exp + d ∧ y.mant ≤ 2 ^ 24 ∧ -149 ≤ y.exp ∧
      (d = 0 ∨ 2 ^ (d + 23) ≤ x.mant ∨ y.exp = -149) ∧
      2 * (y.mant * 2 ^ d) ≤ 2 * x.mant + 2 ^ d ∧ 2 * x.mant ≤ 2 * (y.mant * 2 ^ d) + 2 ^ d ∧
      (2 * (y.mant * 2 ^ d) = 2 * x.mant + 2 ^ d ∨ 2 * x.mant = 2 * (y.mant * 2 ^ d) + 2 ^ d →
        y.mant % 2 = 0)

/-- R218: `wrap` is total on lengths of at least 1, lands in [0, length), leaves an index in range
where it is for offset 0, is 0 for length 1, and reduces an index outside the range the same way. -/
def Obligations.WrapProperties : Prop :=
  (∀ (i o : Int) (n : Nat), 1 ≤ n → 0 ≤ wrap i o n ∧ wrap i o n < n ∧ ∃ k, i + o = wrap i o n + k * n) ∧
  (∀ (i : Int) (n : Nat), 0 ≤ i → i < n → wrap i 0 n = i) ∧
  (∀ i o : Int, wrap i o 1 = 0) ∧
  (∀ (i o k : Int) (n : Nat), 1 ≤ n → wrap (i + k * n) o n = wrap i o n) ∧
  ∀ s : State, s.Inv → 1 ≤ s.cfg.nPixels

/-- R225: a head colour written by one CHASE_STEP is halved once by each of the next N_PIXELS - 1, and
written anew by the one after them. -/
def Obligations.ChaseDecay : Prop :=
  (∀ s : State, s.l.mu = 0 → exec .chaseStep s = .next { s with
    led := chaseTick s.cfg.nPixels s.led, l := s.l.complete .ok }) ∧
  ∀ (led : Led) (n : Nat), led.fb.length = n → led.h < n →
    let head := scale (wheel (led.c + 4)) 0x3F000000
    let after (k : Nat) := (chaseTick n)^[k] (chaseTick n led)
    (after 0).fb[led.h]? = some head ∧
    (∀ k, 1 ≤ k → k ≤ n - 1 →
      (after k).fb[led.h]? = some ⟨head.r >>> k, head.g >>> k, head.b >>> k⟩) ∧
    (after n).fb[led.h]? = some (scale (wheel (after n).c) 0x3F000000)

/-- R232: the reset of `j` cannot be seen, and the frames of successive WHEEL_STEPs repeat every 256
steps. -/
def Obligations.WheelFramesRepeat : Prop :=
  (∀ s : State, s.l.mu = 0 → exec .wheelStep s = .next { s with
    led := wheelTick s.cfg.nPixels s.cfg.wheelBrightness s.led, l := s.l.complete .ok }) ∧
  (∀ j : Nat, (j + 1) % 1280 % 256 = (j + 1) % 256) ∧
  ∀ (n : Nat) (brightness : Word) (led : Led) (k : Nat), 1 ≤ k →
    ((wheelTick n brightness)^[k + 256] led).fb = ((wheelTick n brightness)^[k] led).fb

/-! ## Every run (R25, R27, R41, R43, R46, R71, R75, R114, R140, R234, R263, R290) -/

/-- The invariant of every run holds at every launch, refused or not, and at `State.reset`. For a
refused launch the clauses on the configuration and on FB are those of the model's stand-in, the
reference configuration (log 11); `State.reset` is that of the reference configuration without a
program (logs 3 and 6). These are the model's choices. -/
def Obligations.InvariantAtLaunch : Prop :=
  State.reset.Inv ∧
  ∀ (p : Supplied) (progD progL : Program) (dc : Level), (launch p progD progL dc).Inv

/-- Every step keeps the invariant of every run. -/
def Obligations.StepKeepsTheInvariant : Prop :=
  ∀ s t : State, s.Inv → step s = .next t → t.Inv

/-- R43: a state is final exactly where no agent can step; every other state has a next state. -/
def Obligations.ProgressOrFinal : Prop :=
  ∀ s : State, s.Inv →
    (s.IsFinal ∧ step s = .fault .noEnabledStep) ∨ (¬ s.IsFinal ∧ ∃ t, step s = .next t)

/-- R77, R290: a byte is sent only with CS asserted, and records the levels of its lines; no line
changes while a write is in flight, and the step that ends a write in a fault drives CS only after
its SpiEnd. -/
def Obligations.ChipSelectInvariant : Prop :=
  ∀ s t : State, s.Inv → step s = .next t →
    ∃ es, t.d.trace = s.d.trace ++ es ∧
      (∀ b cs dc, Event.byte b cs dc ∈ es → s.spi.busy = true ∧ cs = Config.csActive ∧
        cs = s.lines.cs ∧ dc = s.lines.dc ∧ t.lines = s.lines) ∧
      (s.spi.busy = true → t.spi.busy = true → t.lines = s.lines) ∧
      (s.spi.busy = true → t.lines ≠ s.lines →
        ∃ n v, es = [.spiEnd n .transmitFault, .line .cs v])

/-- R261: a step of one unit's agents, a fault among them, leaves the other unit's state and trace as
they are, and which of its agents have an enabled step. -/
def Obligations.UnitsAreIsolated : Prop :=
  ∀ (s t : State) (a : Agent), s.mover = some a → step s = .next t →
    (a.owner = .d → t.viewL = s.viewL) ∧ (a.owner = .l → t.viewD = s.viewD) ∧
    ∀ b : Agent, b.owner ≠ a.owner → t.enabled b = s.enabled b

/-- R44, R71: a unit's side of the state, its trace among it, does not depend on how the other unit's
steps interleave: it is the same after the same draws. -/
def Obligations.InterleavingDoesNotMatter : Prop :=
  ∀ (u : UnitId) (outcomes : List (Bool × Level × Bool × Bool)) (s s' t t' : State),
    s.Inv → s'.Inv → s.SameSide u s' → UnitMoves u outcomes s t → UnitMoves u outcomes s' t' →
    t.SameSide u t'

/-- R36, R263: within a unit at most one agent has an enabled step, and it has one until the unit has
stopped; so no two completions compete, and no transfer starts while another is in flight. -/
def Obligations.OneAgentPerUnit : Prop :=
  ∀ (s : State) (u : UnitId), s.Inv →
    (¬ (s.seq u).stopped → ∃ a : Agent, a.owner = u ∧ s.enabled a = true) ∧
    ((s.seq u).stopped → ∀ a : Agent, a.owner = u → s.enabled a = false) ∧
    ∀ a b : Agent, a.owner = u → b.owner = u → s.enabled a = true → s.enabled b = true → a = b

/-- R41: what sets each of the three pieces of fault state; the fault record keeps its first value,
and no step clears a refusal or `pulse_fault`; only a reset does. Traces only grow (R40). -/
def Obligations.FaultStateIsSticky : Prop :=
  (∀ (s : State) (u : UnitId) (code : FaultCode) (info : FaultInfo), code ≠ .pulseFault →
    ((s.raise u code info).seq u).fault =
      some ((s.seq u).fault.getD ⟨code, u, (s.seq u).pc, (s.seq u).mu, info⟩)) ∧
  (∀ (s : State) (u : UnitId), ((s.refuse u).seq u).refused = true) ∧
  (∀ s : State, s.mover = some .pulse → frameResult s.cfg s.draw = .pulseFault →
    ∃ t, step s = .next t ∧ t.led.pulseFault = true) ∧
  (∀ s t : State, step s = .next t →
    (s.led.pulseFault = true → t.led.pulseFault = true) ∧
    ∀ u : UnitId, (∀ r, (s.seq u).fault = some r → (t.seq u).fault = some r) ∧
      ((s.seq u).refused = true → (t.seq u).refused = true) ∧
      ∃ es, (t.seq u).trace = (s.seq u).trace ++ es) ∧
  ∀ (cfg : Config) (progD progL : Program) (dc : Level),
    let s := State.atReset cfg progD progL dc
    s.led.pulseFault = false ∧ ∀ u : UnitId, (s.seq u).fault = none ∧ (s.seq u).refused = false

/-- R25, R260: no step leaves Halted or Done: a stopped unit's sequencer does not change again, nor do
the lines once unit D has stopped, nor FB once unit L has. -/
def Obligations.StoppedUnitsStay : Prop :=
  ∀ (s t : State) (u : UnitId), s.Inv → step s = .next t → (s.seq u).stopped →
    t.seq u = s.seq u ∧ s.SameSide u t

/-- R6, R75: no step writes a program or the configuration. -/
def Obligations.InputsNeverChange : Prop :=
  ∀ s t : State, step s = .next t →
    t.cfg = s.cfg ∧ ∀ u : UnitId, (t.seq u).prog = (s.seq u).prog

/-- R114: PWR changes only in a step of LINE_SET PWR; no display operation reads it. -/
def Obligations.OnlyLineSetDrivesPwr : Prop :=
  (∀ s t : State, step s = .next t → t.lines.pwr ≠ s.lines.pwr →
    s.mover = some (.unit .d) ∧ s.current .d = some (.lineSet .pwr t.lines.pwr)) ∧
  ∀ (i : Instr) (s t : State) (v : Level), isComposite i = true → exec i s = .next t →
    t.lines.pwr = s.lines.pwr ∧
    exec i { s with lines := { s.lines with pwr := v } }
      = .next { t with lines := { t.lines with pwr := v } }

/-- R140: only DISP_INIT moves `drv`: to Initializing where it starts, to Ready where it succeeds, back
to Uninitialized where a write of it fails; and Initializing is never seen at an operation boundary. -/
def Obligations.OnlyDispInitMovesTheDriver : Prop :=
  (∀ s t : State, s.Inv → step s = .next t → t.drv ≠ s.drv →
    s.current .d = some .dispInit ∧
    ((s.mover = some (.unit .d) ∧ s.d.mu = 0 ∧ t.drv = .initializing) ∨
      (s.mover = some (.unit .d) ∧ s.drv = .initializing ∧
        s.d.mu + 1 = (s.items .d).length ∧ t.drv = .ready) ∨
      (s.mover = some .spi ∧ s.draw.spiFault = true ∧ s.drv = .initializing ∧
        t.drv = .uninitialized))) ∧
  ∀ s : State, s.Inv → (s.d.run = .running ∧ s.d.mu = 0 ∨ s.d.stopped) → s.drv ≠ .initializing

/-- R35, R234: FB, `c`, `h` and `j` change only in a step of CHASE_STEP or WHEEL_STEP; while a frame
is in flight unit L waits for it, and neither FB nor the frame changes. -/
def Obligations.FrameBufferWriters : Prop :=
  ∀ s t : State, s.Inv → step s = .next t →
    ((t.led.fb, t.led.c, t.led.h, t.led.j) ≠ (s.led.fb, s.led.c, s.led.h, s.led.j) →
      s.mover = some (.unit .l) ∧
      (s.current .l = some .chaseStep ∨ s.current .l = some .wheelStep)) ∧
    (s.pulse.busy = true → s.l.run = .waiting .frameDone ∧ t.led.fb = s.led.fb ∧
      (t.pulse.busy = true → t.pulse = s.pulse))

/-- R46: in a fair run every wait ends. (That agents are fair is the spec's premise, log 8.) -/
def Obligations.FairRunsEndEveryWait : Prop :=
  ∀ r : Nat → State, IsRun r → Fair r → (r 0).Inv →
    ∀ (n : Nat) (u : UnitId) (w : Wait), ((r n).seq u).run = .waiting w →
      ∃ m, n < m ∧ ((r m).seq u).run ≠ .waiting w

/-! ## The wires (R63, R65, R176, R303) -/

/-- R63, R65, R176: a frame is 24 bits for each pixel, pixel 0 first; with the orders the spec takes, a
pixel goes out as g[7] .. g[0] r[7] .. r[0] b[7] .. b[0], and a byte on the SPI data line from bit 7 to
bit 0. -/
def Obligations.WireOrder : Prop :=
  (∀ (cfg : Config) (pixels : List Pixel), (frameBits cfg pixels).length = 24 * pixels.length) ∧
  (∀ (cfg : Config) (pixels : List Pixel) (p : Pixel),
    frameBits cfg (p :: pixels) = pixelBits cfg p ++ frameBits cfg pixels) ∧
  (∀ (cfg : Config) (p : Pixel) (k : Nat), cfg.pixelWireOrder = .grb →
    cfg.pulseBitOrder = .msbFirst → k < 8 →
    (pixelBits cfg p)[k]? = some (p.g.getLsbD (7 - k)) ∧
    (pixelBits cfg p)[8 + k]? = some (p.r.getLsbD (7 - k)) ∧
    (pixelBits cfg p)[16 + k]? = some (p.b.getLsbD (7 - k))) ∧
  ∀ (cfg : Config) (b : Byte) (k : Nat), cfg.spiBitOrder = .msbFirst → k < 8 →
    (spiWireBits cfg [b])[k]? = some (b.getLsbD (7 - k))

/-- R303: with the informative WS2812 figures (log 3) a frame lasts 24 * N_PIXELS * 1.25 us and the
latch of 50 us. -/
def Obligations.FrameDuration : Prop :=
  ∀ (cfg : Config) (pixels : List Pixel), cfg.pulseTiming = ⟨400, 850, 800, 450, 50000⟩ →
    frameNs cfg pixels = 24 * pixels.length * 1250 + 50000
end

