-- ==== Sys2Proof/Laws/Colour.lean ====
section
/-! SUPPORT. What a chase tick leaves, pixel by pixel (R224 to R227). -/

namespace Sys2Proof.Machine

/-- `wrap` backwards by less than a length (R217). -/
theorem wrapIndex_back (h k n : Nat) (hh : h < n) (hk : k < n) :
    wrapIndex h (-(k : Int)) n = if k ≤ h then h - k else n + h - k := by
  unfold wrapIndex wrap
  split
  · rw [Int.emod_eq_of_lt] <;> omega
  · rw [← Int.add_emod_right, Int.emod_eq_of_lt] <;> omega

/-- The trailing indices are different from one another (R224). -/
theorem trailing_nodup (h n : Nat) (hh : h < n) :
    ((trailingOffsets n).map fun k : Nat => wrapIndex h (-(k : Int)) n).Nodup := by
  unfold trailingOffsets
  refine List.Nodup.map_on ?_ (List.nodup_range' ..)
  intro a ha b hb hab
  rw [List.mem_range'_1] at ha hb
  rw [wrapIndex_back h a n hh (by omega), wrapIndex_back h b n hh (by omega)] at hab
  split at hab <;> split at hab <;> omega

/-- The trailing indices are all but the head's (R224, R227). -/
theorem mem_trailing (h n i : Nat) (hh : h < n) :
    i ∈ (trailingOffsets n).map (fun k : Nat => wrapIndex h (-(k : Int)) n) ↔ i < n ∧ i ≠ h := by
  simp only [List.mem_map, trailingOffsets, List.mem_range'_1]
  constructor
  · rintro ⟨k, hk, rfl⟩
    rw [wrapIndex_back h k n hh (by omega)]
    split <;> omega
  · rintro ⟨h1, h2⟩
    by_cases h3 : i < h
    · exact ⟨h - i, by omega, by rw [wrapIndex_back h _ n hh (by omega)]; split <;> omega⟩
    · exact ⟨n + h - i, by omega, by rw [wrapIndex_back h _ n hh (by omega)]; split <;> omega⟩

/-- Darkening one trailing pixel. -/
theorem darken_get (h n : Nat) (fb : List Pixel) (k i : Nat) :
    (darken h n fb k)[i]? =
      if i = wrapIndex h (-(k : Int)) n then (fb[i]?).map (fun p => scale p Config.chaseBrightness)
      else fb[i]? := by
  unfold darken
  simp only
  by_cases hi : i = wrapIndex h (-(k : Int)) n
  · subst hi
    rw [if_pos rfl, List.getElem?_set]
    simp only [if_true]
    split
    · rename_i hlt; simp [List.getElem?_eq_getElem hlt, List.getD]
    · rename_i hlt; simp [List.getElem?_eq_none (Nat.le_of_not_lt hlt)]
  · rw [if_neg hi, List.getElem?_set, if_neg (Ne.symm hi)]

/-- Darkening a list of different pixels darkens each once. -/
theorem foldl_darken_get (h n i : Nat) (ks : List Nat)
    (hn : (ks.map fun k : Nat => wrapIndex h (-(k : Int)) n).Nodup) (fb : List Pixel) :
    (ks.foldl (darken h n) fb)[i]? =
      if i ∈ ks.map (fun k : Nat => wrapIndex h (-(k : Int)) n) then
        (fb[i]?).map (fun p => scale p Config.chaseBrightness)
      else fb[i]? := by
  induction ks generalizing fb with
  | nil => simp
  | cons k ks ih =>
    simp only [List.map_cons, List.nodup_cons] at hn
    rw [List.foldl_cons, ih hn.2]
    simp only [List.map_cons, List.mem_cons]
    rw [darken_get]
    by_cases h1 : i = wrapIndex h (-(k : Int)) n
    · subst h1; simp [hn.1]
    · simp [h1]

/-- A pixel after a chase tick (R224). -/
theorem chaseTick_get (n : Nat) (led : Led) (hl : led.fb.length = n) (hh : led.h < n) (i : Nat) :
    (chaseTick n led).fb[i]? =
      if i = led.h then some (headColour (led.c + Config.chaseStep))
      else (led.fb[i]?).map (fun p => scale p Config.chaseBrightness) := by
  simp only [chaseTick]
  rw [foldl_darken_get _ _ _ _ (trailing_nodup _ _ hh)]
  simp only [mem_trailing _ _ _ hh]
  by_cases h1 : i = led.h
  · subst h1; simp [hl, hh]
  · simp only [h1, ne_eq, not_false_eq_true, and_true, if_false]
    rw [List.getElem?_set_ne (Ne.symm h1)]
    split
    · rfl
    · rw [List.getElem?_eq_none (by omega)]; rfl

/-- The head index after a chase tick (R224). -/
theorem chaseTick_h (n : Nat) (led : Led) : (chaseTick n led).h = (led.h + 1) % n := by
  simp only [chaseTick, wrapIndex, wrap]
  rw [show (((led.h : Int) + 1) % (n : Int)) = (((led.h + 1) % n : Nat) : Int) by
    push_cast; rfl, Int.toNat_natCast]

end Sys2Proof.Machine
end

