-- ==== Sys2Proof/Laws/Decode.lean ====
section
/-! SUPPORT. The decoder's parts: what a word that decodes meets, and the fields of a packed word. -/

namespace Sys2Proof

/-- A word that decodes, its row and its checks (R81). -/
theorem decode_eq_ok {w : Word} {payload : List Byte} {u : UnitId} {i : Instr} :
    decode w payload u = .ok i ↔
      ∃ o, Opcode.ofBits (opcField w) = some o ∧ o.matches w = true ∧ o.allows u = true ∧
        payload.length = o.payloadLength (immField w) ∧
        i = o.build (argField w) (immField w) payload := by
  unfold decode
  cases Opcode.ofBits (opcField w) with
  | none => simp
  | some o =>
    simp only [Option.some.injEq, exists_eq_left']
    split
    · simp_all
    · split
      · simp_all
      · split
        · simp_all
        · rw [Decoded.ok.injEq]
          constructor
          · rintro rfl
            exact ⟨by simpa using ‹¬ (!o.matches w) = true›, by simpa using ‹¬ (!o.allows u) = true›,
              by simpa using ‹¬ payload.length ≠ _›, rfl⟩
          · rintro ⟨_, _, _, rfl⟩
            rfl

/-- Building keeps the operation code. -/
@[simp] theorem opcode_build (o : Opcode) (a : Byte) (imm : Half) (payload : List Byte) :
    (o.build a imm payload).opcode = o := by cases o <;> rfl

/-- The unit of a decoded operation is one its row lists (R81). -/
theorem decode_ok_allows {op : Op} {u : UnitId} {i : Instr} (h : op.decode u = .ok i) :
    i.opcode.allows u = true := by
  obtain ⟨o, _, _, ha, _, rfl⟩ := decode_eq_ok.mp h
  simpa using ha

/-- The rows' codes and names agree. -/
@[simp] theorem ofBits_bits (o : Opcode) : Opcode.ofBits o.bits = some o := by cases o <;> rfl

/-- A packed word as a number (R80). -/
theorem packWord_toNat (opc : BitVec 8) (a : Byte) (imm : Half) :
    (packWord opc a imm).toNat = opc.toNat * 16777216 + a.toNat * 65536 + imm.toNat := by
  have h1 : opc.toNat < 256 := opc.isLt
  have h2 : a.toNat < 256 := a.isLt
  have h3 : imm.toNat < 65536 := imm.isLt
  unfold packWord
  rw [BitVec.toNat_ofNat]
  norm_num
  omega

@[simp] theorem opcField_packWord (opc : BitVec 8) (a : Byte) (imm : Half) :
    opcField (packWord opc a imm) = opc := by
  have h1 : opc.toNat < 256 := opc.isLt
  have h2 : a.toNat < 256 := a.isLt
  have h3 : imm.toNat < 65536 := imm.isLt
  apply BitVec.eq_of_toNat_eq
  rw [opcField, BitVec.extractLsb'_toNat, packWord_toNat, Nat.shiftRight_eq_div_pow]
  norm_num
  omega

@[simp] theorem argField_packWord (opc : BitVec 8) (a : Byte) (imm : Half) :
    argField (packWord opc a imm) = a := by
  have h1 : opc.toNat < 256 := opc.isLt
  have h2 : a.toNat < 256 := a.isLt
  have h3 : imm.toNat < 65536 := imm.isLt
  apply BitVec.eq_of_toNat_eq
  rw [argField, BitVec.extractLsb'_toNat, packWord_toNat, Nat.shiftRight_eq_div_pow]
  norm_num
  omega

@[simp] theorem immField_packWord (opc : BitVec 8) (a : Byte) (imm : Half) :
    immField (packWord opc a imm) = imm := by
  have h1 : opc.toNat < 256 := opc.isLt
  have h2 : a.toNat < 256 := a.isLt
  have h3 : imm.toNat < 65536 := imm.isLt
  apply BitVec.eq_of_toNat_eq
  rw [immField, BitVec.extractLsb'_toNat, packWord_toNat, Nat.shiftRight_eq_div_pow]
  norm_num
  omega

/-! ## The rows of the table -/

/-- A word is its three fields (R80). -/
theorem packWord_fields (w : Word) : packWord (opcField w) (argField w) (immField w) = w := by
  apply BitVec.eq_of_toNat_eq
  rw [packWord_toNat]
  have := w.isLt
  rw [opcField, argField, immField, BitVec.extractLsb'_toNat, BitVec.extractLsb'_toNat,
    BitVec.extractLsb'_toNat]
  simp only [Nat.shiftRight_eq_div_pow]
  norm_num at *
  omega

/-- Words with the same fields are the same (R80). -/
theorem word_ext {v w : Word} (h1 : opcField v = opcField w) (h2 : argField v = argField w)
    (h3 : immField v = immField w) : v = w := by
  rw [← packWord_fields v, ← packWord_fields w, h1, h2, h3]

/-- A masked comparison, field by field (R84). -/
theorem and_eq_iff (w m k : Word) : w &&& m = k ↔
    opcField w &&& opcField m = opcField k ∧ argField w &&& argField m = argField k ∧
      immField w &&& immField m = immField k := by
  have e : ∀ s n, (w &&& m).extractLsb' s n = w.extractLsb' s n &&& m.extractLsb' s n :=
    fun s n => BitVec.extractLsb'_and ..
  constructor
  · rintro rfl
    exact ⟨(e ..).symm, (e ..).symm, (e ..).symm⟩
  · rintro ⟨h1, h2, h3⟩
    exact word_ext ((e ..).trans h1) ((e ..).trans h2) ((e ..).trans h3)

/-- A code is that of the row it names. -/
theorem ofBits_eq_some {b : BitVec 8} {o : Opcode} : Opcode.ofBits b = some o ↔ o.bits = b := by
  revert b o
  have : ∀ b : BitVec 8, ∀ o ∈ [Opcode.lineSet, .spiWrite, .dispInit, .dispCmd, .dispData,
      .pulseWrite, .sleep, .tickerSet, .tickerNext, .chaseStep, .wheelStep],
      Opcode.ofBits b = some o ↔ o.bits = b := by decide
  intro b o
  exact this b o (by cases o <;> decide)

/-- The illegal codes of R85. -/
theorem ofBits_eq_none {b : BitVec 8} :
    Opcode.ofBits b = none ↔ b = 0x00 ∨ 0x0C ≤ b.toNat := by
  revert b; decide

/-- The operands of a row whose reserved bits are 0 (R82, R83, R84). -/
def Opcode.fieldsOk (o : Opcode) (a : Byte) (imm : Half) : Prop :=
  match o with
  | .lineSet => a.toNat < 4 ∧ (imm = 0 ∨ imm = 1)
  | .dispCmd => True
  | .spiWrite | .dispData | .pulseWrite | .sleep | .tickerSet => a = 0
  | .dispInit | .tickerNext | .chaseStep | .wheelStep => a = 0 ∧ imm = 0

theorem and_allOnes8 (a : BitVec 8) : a &&& 255 = a := by
  simpa using BitVec.and_allOnes (x := a)

theorem and_allOnes16 (a : BitVec 16) : a &&& 65535 = a := by
  simpa using BitVec.and_allOnes (x := a)

theorem and_252 (a : BitVec 8) : a &&& 252 = 0 ↔ a.toNat < 4 := by revert a; decide

theorem and_fffe (a : BitVec 16) : a &&& 65534 = 0 ↔ a = 0 ∨ a = 1 := by
  constructor
  · intro h
    have h1 : a.extractLsb' 1 15 = 0 := by
      have : (a &&& 65534).extractLsb' 1 15 = a.extractLsb' 1 15 := by
        rw [BitVec.extractLsb'_and]
        simpa using BitVec.and_allOnes (x := a.extractLsb' 1 15)
      rw [← this, h]; rfl
    have h2 := congrArg BitVec.toNat h1
    rw [BitVec.extractLsb'_toNat, Nat.shiftRight_eq_div_pow,
      show (0 : BitVec 15).toNat = 0 from rfl] at h2
    have := a.isLt
    norm_num at *
    have : a.toNat = 0 ∨ a.toNat = 1 := by omega
    rcases this with h | h
    · exact .inl (BitVec.eq_of_toNat_eq h)
    · exact .inr (BitVec.eq_of_toNat_eq h)
  · rintro (rfl | rfl) <;> decide

/-- A row's words by their fields (R84). -/
theorem row_iff (o : Opcode) (w : Word) : w &&& o.mask = o.matchWord ↔
    opcField w = o.bits ∧ o.fieldsOk (argField w) (immField w) := by
  rw [and_eq_iff]
  have z16 : ∀ a : Half, a &&& 0 = 0 := fun a => by simp
  cases o <;>
  simp only [Opcode.mask, Opcode.matchWord, Opcode.bits, Opcode.fieldsOk] <;>
  (first
    | rw [show opcField (0xFFFCFFFE : Word) = 255 from by decide,
        show argField (0xFFFCFFFE : Word) = 252 from by decide,
        show immField (0xFFFCFFFE : Word) = 65534 from by decide, and_allOnes8]
      exact and_congr Iff.rfl (and_congr (and_252 _) (and_fffe _))
    | rw [show opcField (0xFFFF0000 : Word) = 255 from by decide,
        show argField (0xFFFF0000 : Word) = 255 from by decide,
        show immField (0xFFFF0000 : Word) = 0 from by decide, and_allOnes8, and_allOnes8, z16]
      exact and_congr Iff.rfl (and_iff_left (by decide))
    | rw [show opcField (0xFF000000 : Word) = 255 from by decide,
        show argField (0xFF000000 : Word) = 0 from by decide,
        show immField (0xFF000000 : Word) = 0 from by decide, and_allOnes8, z16]
      exact and_congr Iff.rfl (by simp; decide)
    | rw [show opcField (0xFFFFFFFF : Word) = 255 from by decide,
        show argField (0xFFFFFFFF : Word) = 255 from by decide,
        show immField (0xFFFFFFFF : Word) = 65535 from by decide, and_allOnes8, and_allOnes8,
        and_allOnes16]
      exact Iff.rfl)

/-- The decoder's row check by fields. -/
theorem matches_iff (o : Opcode) (w : Word) : o.matches w = true ↔
    opcField w = o.bits ∧ o.fieldsOk (argField w) (immField w) := by
  rw [← row_iff]; simp [Opcode.matches]

end Sys2Proof
end

