-- ==== Sys2Proof/Laws/Invariant.lean ====
section
/-! SUPPORT. A check that can be evaluated and that implies the invariant of every run, so that a
concrete state is shown to meet it by evaluation. -/

namespace Sys2Proof.Machine

/-- The conditions of `UnitInv`, as one Bool. -/
def unitInvCheck (s : State) (u : UnitId) : Bool :=
  let q := s.seq u
  (q.run == .done || q.run == .halted || decide (q.pc < q.prog.ops.length))
    && (q.run != .done || q.mu == 0)
    && (q.run != .running || q.mu == 0 || decide (q.mu < (s.items u).length))
    && (match q.run with
      | .waiting w => ((s.items u)[q.mu]?).any fun m => m.wait == some w
      | _ => true)
    && ((q.run == .waiting .spiDone) == (u == .d && s.spi.busy))
    && ((q.run == .waiting .frameDone) == (u == .l && s.pulse.busy))
    && ((q.run == .waiting .sleepDone)
      == (match q.pending with | some (.sleep _) => true | _ => false))
    && ((q.run == .waiting .tickDone) == (q.pending == some .tick))
    && (!q.refused || q.run == .halted)
    && (q.run != .halted || q.fault.isSome || q.refused)
    && decide (1 ≤ q.ticker.period.toNat)

/-- Every line. -/
def allLines : List Line := [.cs, .dc, .rst, .pwr]

/-- The conditions of `State.Inv`, as one Bool. -/
def State.invCheck (s : State) : Bool :=
  configOk s.cfg && unitInvCheck s .d && unitInvCheck s .l
    && s.led.fb.length == s.cfg.nPixels && decide (s.led.h < s.cfg.nPixels)
    && decide (s.led.j < Config.wheelCycle)
    && s.pulse.snap.length == (if s.pulse.busy then s.cfg.nPixels else 0)
    && (s.spi.busy || s.spi.q == [])
    && (!s.spi.busy || match (s.items .d)[s.d.mu]? with
      | some (.spi bytes) =>
        bytes.drop s.spi.sent == s.spi.q && decide (s.spi.sent ≤ bytes.length)
      | _ => false)
    && (!s.spi.busy || s.spi.q == [] || s.lines.cs == Config.csActive)
    && (s.d.run == .halted || allLines.all fun line =>
      match lastDriven line ((s.items .d).take s.d.mu) with
      | some v => s.lines.get line == v
      | none => true)
    && ((s.drv == .initializing)
      == (s.current .d == some .dispInit && decide (0 < s.d.mu) && s.d.run != .halted))

/-- The check implies the unit's invariant. -/
theorem unitInv_of_check {s : State} {u : UnitId} (h : unitInvCheck s u = true) :
    UnitInv s u := by
  simp only [unitInvCheck, Bool.and_eq_true] at h
  obtain ⟨⟨⟨⟨⟨⟨⟨⟨⟨⟨h1, h2⟩, h3⟩, h4⟩, h5⟩, h6⟩, h7⟩, h8⟩, h9⟩, h10⟩, h11⟩ := h
  refine ⟨?_, ?_, ?_, ?_, ?_, ?_, ?_, ?_, ?_, ?_, of_decide_eq_true h11⟩
  · intro hs
    simp only [Seq.stopped, not_or] at hs
    simpa [hs.1, hs.2] using h1
  · intro hd
    simpa [hd] using h2
  · intro hr hm
    have : (s.seq u).mu ≠ 0 := by omega
    simpa [hr, this] using h3
  · intro w hw
    rw [hw] at h4
    cases hi : (s.items u)[(s.seq u).mu]? with
    | none => simp [hi] at h4
    | some m => exact ⟨m, rfl, by simpa [hi] using h4⟩
  · have h := (beq_iff_eq.mp h5)
    rw [Bool.eq_iff_iff] at h
    simpa using h
  · have h := (beq_iff_eq.mp h6)
    rw [Bool.eq_iff_iff] at h
    simpa using h
  · have h := (beq_iff_eq.mp h7)
    rw [Bool.eq_iff_iff] at h
    rw [beq_iff_eq] at h
    rw [h]
    cases (s.seq u).pending with
    | none => simp
    | some p => cases p <;> simp
  · have h := (beq_iff_eq.mp h8)
    rw [Bool.eq_iff_iff] at h
    simpa using h
  · intro hr
    simpa [hr] using h9
  · intro hr
    simpa [hr, Option.isSome_iff_ne_none] using h10

/-- The check implies the invariant. -/
theorem inv_of_invCheck {s : State} (h : s.invCheck = true) : s.Inv := by
  simp only [State.invCheck, Bool.and_eq_true] at h
  obtain ⟨⟨⟨⟨⟨⟨⟨⟨⟨⟨⟨h0, h1⟩, h2⟩, h3⟩, h4⟩, h5⟩, h6⟩, h7⟩, h8⟩, h9⟩, h10⟩, h11⟩ := h
  refine ⟨h0, fun u => ?_, beq_iff_eq.mp h3, of_decide_eq_true h4, of_decide_eq_true h5,
    beq_iff_eq.mp h6, ?_, ?_, ?_, ?_, ?_⟩
  · cases u
    · exact unitInv_of_check h1
    · exact unitInv_of_check h2
  · intro hb
    simpa [hb] using h7
  · intro hb
    simp only [hb, Bool.not_true, Bool.false_or] at h8
    split at h8
    · rename_i bytes hi
      simp only [Bool.and_eq_true, beq_iff_eq, decide_eq_true_eq] at h8
      refine ⟨bytes.take s.spi.sent, ?_, by simp [h8.2]⟩
      rw [hi, ← h8.1, List.take_append_drop]
    · cases h8
  · intro hb hq
    simpa [hb, hq] using h9
  · intro hr line v hl
    simp only [hr, beq_iff_eq, Bool.or_eq_true, false_or, List.all_eq_true] at h10
    have := h10 line (by cases line <;> simp [allLines])
    rw [hl] at this
    simpa using this
  · have h := (beq_iff_eq.mp h11)
    rw [Bool.eq_iff_iff] at h
    simpa [and_assoc] using h

end Sys2Proof.Machine
end

