-- ==== Sys2Proof/Laws/State.lean ====
section
/-! SUPPORT. One lemma per field per update, so that no proof unfolds a record update: the sequencer
operations of Machine/Flags.lean and Machine/Ops.lean, and the state operations over them. -/

namespace Sys2Proof.Machine

/-! ## Reading and replacing a sequencer -/

@[simp] theorem seq_d (s : State) : s.seq .d = s.d := rfl
@[simp] theorem seq_l (s : State) : s.seq .l = s.l := rfl

@[simp] theorem mapSeq_seq (s : State) (u : UnitId) (f : Seq → Seq) :
    (s.mapSeq u f).seq u = f (s.seq u) := by cases u <;> rfl
theorem mapSeq_seq_of_ne (s : State) (u v : UnitId) (f : Seq → Seq) (h : v ≠ u) :
    (s.mapSeq u f).seq v = s.seq v := by cases u <;> cases v <;> first | rfl | exact absurd rfl h
@[simp] theorem mapSeq_d_d (s : State) (f : Seq → Seq) : (s.mapSeq .d f).d = f s.d := rfl
@[simp] theorem mapSeq_d_l (s : State) (f : Seq → Seq) : (s.mapSeq .d f).l = s.l := rfl
@[simp] theorem mapSeq_l_d (s : State) (f : Seq → Seq) : (s.mapSeq .l f).d = s.d := rfl
@[simp] theorem mapSeq_l_l (s : State) (f : Seq → Seq) : (s.mapSeq .l f).l = f s.l := rfl

@[simp] theorem mapSeq_cfg (s : State) (u : UnitId) (f : Seq → Seq) :
    (s.mapSeq u f).cfg = s.cfg := by cases u <;> rfl
@[simp] theorem mapSeq_lines (s : State) (u : UnitId) (f : Seq → Seq) :
    (s.mapSeq u f).lines = s.lines := by cases u <;> rfl
@[simp] theorem mapSeq_drv (s : State) (u : UnitId) (f : Seq → Seq) :
    (s.mapSeq u f).drv = s.drv := by cases u <;> rfl
@[simp] theorem mapSeq_tfSinceInit (s : State) (u : UnitId) (f : Seq → Seq) :
    (s.mapSeq u f).tfSinceInit = s.tfSinceInit := by cases u <;> rfl
@[simp] theorem mapSeq_spi (s : State) (u : UnitId) (f : Seq → Seq) :
    (s.mapSeq u f).spi = s.spi := by cases u <;> rfl
@[simp] theorem mapSeq_led (s : State) (u : UnitId) (f : Seq → Seq) :
    (s.mapSeq u f).led = s.led := by cases u <;> rfl
@[simp] theorem mapSeq_pulse (s : State) (u : UnitId) (f : Seq → Seq) :
    (s.mapSeq u f).pulse = s.pulse := by cases u <;> rfl
@[simp] theorem mapSeq_draw (s : State) (u : UnitId) (f : Seq → Seq) :
    (s.mapSeq u f).draw = s.draw := by cases u <;> rfl
@[simp] theorem mapSeq_choices (s : State) (u : UnitId) (f : Seq → Seq) :
    (s.mapSeq u f).choices = s.choices := by cases u <;> rfl
@[simp] theorem mapSeq_drawn (s : State) (u : UnitId) (f : Seq → Seq) :
    (s.mapSeq u f).drawn = s.drawn := by cases u <;> rfl

/-! ## State operations -/

@[simp] theorem driveLine_cfg (s : State) (line : Line) (v : Level) : (s.driveLine line v).cfg = s.cfg := rfl
@[simp] theorem driveLine_lines (s : State) (line : Line) (v : Level) : (s.driveLine line v).lines = s.lines.drive line v := rfl
@[simp] theorem driveLine_drv (s : State) (line : Line) (v : Level) : (s.driveLine line v).drv = s.drv := rfl
@[simp] theorem driveLine_tfSinceInit (s : State) (line : Line) (v : Level) : (s.driveLine line v).tfSinceInit = s.tfSinceInit := rfl
@[simp] theorem driveLine_spi (s : State) (line : Line) (v : Level) : (s.driveLine line v).spi = s.spi := rfl
@[simp] theorem driveLine_led (s : State) (line : Line) (v : Level) : (s.driveLine line v).led = s.led := rfl
@[simp] theorem driveLine_pulse (s : State) (line : Line) (v : Level) : (s.driveLine line v).pulse = s.pulse := rfl
@[simp] theorem driveLine_draw (s : State) (line : Line) (v : Level) : (s.driveLine line v).draw = s.draw := rfl
@[simp] theorem driveLine_choices (s : State) (line : Line) (v : Level) : (s.driveLine line v).choices = s.choices := rfl
@[simp] theorem driveLine_drawn (s : State) (line : Line) (v : Level) : (s.driveLine line v).drawn = s.drawn := rfl
@[simp] theorem driveLine_d (s : State) (line : Line) (v : Level) : (s.driveLine line v).d = s.d.emit (.line line v) := rfl
@[simp] theorem driveLine_l (s : State) (line : Line) (v : Level) : (s.driveLine line v).l = s.l := rfl
@[simp] theorem startSpi_cfg (s : State) (bytes : List Byte) : (s.startSpi bytes).cfg = s.cfg := rfl
@[simp] theorem startSpi_lines (s : State) (bytes : List Byte) : (s.startSpi bytes).lines = s.lines := rfl
@[simp] theorem startSpi_drv (s : State) (bytes : List Byte) : (s.startSpi bytes).drv = s.drv := rfl
@[simp] theorem startSpi_tfSinceInit (s : State) (bytes : List Byte) : (s.startSpi bytes).tfSinceInit = s.tfSinceInit := rfl
@[simp] theorem startSpi_spi (s : State) (bytes : List Byte) : (s.startSpi bytes).spi = ⟨true, bytes, 0⟩ := rfl
@[simp] theorem startSpi_led (s : State) (bytes : List Byte) : (s.startSpi bytes).led = s.led := rfl
@[simp] theorem startSpi_pulse (s : State) (bytes : List Byte) : (s.startSpi bytes).pulse = s.pulse := rfl
@[simp] theorem startSpi_draw (s : State) (bytes : List Byte) : (s.startSpi bytes).draw = s.draw := rfl
@[simp] theorem startSpi_choices (s : State) (bytes : List Byte) : (s.startSpi bytes).choices = s.choices := rfl
@[simp] theorem startSpi_drawn (s : State) (bytes : List Byte) : (s.startSpi bytes).drawn = s.drawn := rfl
@[simp] theorem startSpi_d (s : State) (bytes : List Byte) : (s.startSpi bytes).d = s.d.await .spiDone := rfl
@[simp] theorem startSpi_l (s : State) (bytes : List Byte) : (s.startSpi bytes).l = s.l := rfl
@[simp] theorem startFrame_cfg (s : State) : s.startFrame.cfg = s.cfg := rfl
@[simp] theorem startFrame_lines (s : State) : s.startFrame.lines = s.lines := rfl
@[simp] theorem startFrame_drv (s : State) : s.startFrame.drv = s.drv := rfl
@[simp] theorem startFrame_tfSinceInit (s : State) : s.startFrame.tfSinceInit = s.tfSinceInit := rfl
@[simp] theorem startFrame_spi (s : State) : s.startFrame.spi = s.spi := rfl
@[simp] theorem startFrame_led (s : State) : s.startFrame.led = s.led := rfl
@[simp] theorem startFrame_pulse (s : State) : s.startFrame.pulse = ⟨true, s.led.fb⟩ := rfl
@[simp] theorem startFrame_draw (s : State) : s.startFrame.draw = s.draw := rfl
@[simp] theorem startFrame_choices (s : State) : s.startFrame.choices = s.choices := rfl
@[simp] theorem startFrame_drawn (s : State) : s.startFrame.drawn = s.drawn := rfl
@[simp] theorem startFrame_d (s : State) : s.startFrame.d = s.d := rfl
@[simp] theorem startFrame_l (s : State) : s.startFrame.l = s.l.await .frameDone := rfl
@[simp] theorem withAgent_cfg (s : State) (a : Agent) : (s.withAgent a).cfg = s.cfg := rfl
@[simp] theorem withAgent_lines (s : State) (a : Agent) : (s.withAgent a).lines = s.lines := rfl
@[simp] theorem withAgent_drv (s : State) (a : Agent) : (s.withAgent a).drv = s.drv := rfl
@[simp] theorem withAgent_tfSinceInit (s : State) (a : Agent) : (s.withAgent a).tfSinceInit = s.tfSinceInit := rfl
@[simp] theorem withAgent_spi (s : State) (a : Agent) : (s.withAgent a).spi = s.spi := rfl
@[simp] theorem withAgent_led (s : State) (a : Agent) : (s.withAgent a).led = s.led := rfl
@[simp] theorem withAgent_pulse (s : State) (a : Agent) : (s.withAgent a).pulse = s.pulse := rfl
@[simp] theorem withAgent_draw (s : State) (a : Agent) : (s.withAgent a).draw = { s.draw with agent := a } := rfl
@[simp] theorem withAgent_choices (s : State) (a : Agent) : (s.withAgent a).choices = s.choices := rfl
@[simp] theorem withAgent_drawn (s : State) (a : Agent) : (s.withAgent a).drawn = s.drawn := rfl
@[simp] theorem withAgent_d (s : State) (a : Agent) : (s.withAgent a).d = s.d := rfl
@[simp] theorem withAgent_l (s : State) (a : Agent) : (s.withAgent a).l = s.l := rfl
@[simp] theorem withAgent_seq (s : State) (a : Agent) (u : UnitId) : (s.withAgent a).seq u = s.seq u := by cases u <;> rfl
@[simp] theorem withAgent_actor (s : State) (a : Agent) : (s.withAgent a).actor = a.owner := rfl
@[simp] theorem nextDraw_cfg (s : State) : s.nextDraw.cfg = s.cfg := by unfold State.nextDraw; split <;> rfl
@[simp] theorem nextDraw_lines (s : State) : s.nextDraw.lines = s.lines := by unfold State.nextDraw; split <;> rfl
@[simp] theorem nextDraw_drv (s : State) : s.nextDraw.drv = s.drv := by unfold State.nextDraw; split <;> rfl
@[simp] theorem nextDraw_tfSinceInit (s : State) : s.nextDraw.tfSinceInit = s.tfSinceInit := by unfold State.nextDraw; split <;> rfl
@[simp] theorem nextDraw_spi (s : State) : s.nextDraw.spi = s.spi := by unfold State.nextDraw; split <;> rfl
@[simp] theorem nextDraw_led (s : State) : s.nextDraw.led = s.led := by unfold State.nextDraw; split <;> rfl
@[simp] theorem nextDraw_pulse (s : State) : s.nextDraw.pulse = s.pulse := by unfold State.nextDraw; split <;> rfl
@[simp] theorem nextDraw_d (s : State) : s.nextDraw.d = s.d := by unfold State.nextDraw; split <;> rfl
@[simp] theorem nextDraw_l (s : State) : s.nextDraw.l = s.l := by unfold State.nextDraw; split <;> rfl
@[simp] theorem nextDraw_seq (s : State) (u : UnitId) : s.nextDraw.seq u = s.seq u := by cases u <;> simp
theorem nextDraw_of_cons (s : State) (c : Draw) (rest : List Draw) (h : s.choices = c :: rest) :
    s.nextDraw = { s with draw := c, choices := rest } := by simp [State.nextDraw, h]
theorem nextDraw_of_nil (s : State) (h : s.choices = []) :
    s.nextDraw = { s with draw := Config.freeDraw s.drawn, drawn := s.drawn + 1 } := by
  simp [State.nextDraw, h]

/-! ## Sequencer operations -/

@[simp] theorem emit_prog (q : Seq) (e : Event) : (q.emit e).prog = q.prog := rfl
@[simp] theorem emit_pc (q : Seq) (e : Event) : (q.emit e).pc = q.pc := rfl
@[simp] theorem emit_mu (q : Seq) (e : Event) : (q.emit e).mu = q.mu := rfl
@[simp] theorem emit_run (q : Seq) (e : Event) : (q.emit e).run = q.run := rfl
@[simp] theorem emit_st (q : Seq) (e : Event) : (q.emit e).st = q.st := rfl
@[simp] theorem emit_fault (q : Seq) (e : Event) : (q.emit e).fault = q.fault := rfl
@[simp] theorem emit_refused (q : Seq) (e : Event) : (q.emit e).refused = q.refused := rfl
@[simp] theorem emit_ticker (q : Seq) (e : Event) : (q.emit e).ticker = q.ticker := rfl
@[simp] theorem emit_pending (q : Seq) (e : Event) : (q.emit e).pending = q.pending := rfl
@[simp] theorem emit_trace (q : Seq) (e : Event) : (q.emit e).trace = q.trace ++ [e] := rfl
@[simp] theorem emit_laps (q : Seq) (e : Event) : (q.emit e).laps = q.laps := rfl
@[simp] theorem await_prog (q : Seq) (w : Wait) : (q.await w).prog = q.prog := rfl
@[simp] theorem await_pc (q : Seq) (w : Wait) : (q.await w).pc = q.pc := rfl
@[simp] theorem await_mu (q : Seq) (w : Wait) : (q.await w).mu = q.mu := rfl
@[simp] theorem await_run (q : Seq) (w : Wait) : (q.await w).run = .waiting w := rfl
@[simp] theorem await_st (q : Seq) (w : Wait) : (q.await w).st = q.st := rfl
@[simp] theorem await_fault (q : Seq) (w : Wait) : (q.await w).fault = q.fault := rfl
@[simp] theorem await_refused (q : Seq) (w : Wait) : (q.await w).refused = q.refused := rfl
@[simp] theorem await_ticker (q : Seq) (w : Wait) : (q.await w).ticker = q.ticker := rfl
@[simp] theorem await_pending (q : Seq) (w : Wait) : (q.await w).pending = q.pending := rfl
@[simp] theorem await_trace (q : Seq) (w : Wait) : (q.await w).trace = q.trace := rfl
@[simp] theorem await_laps (q : Seq) (w : Wait) : (q.await w).laps = q.laps := rfl
@[simp] theorem setPending_prog (q : Seq) (p : Option Pending) : (q.setPending p).prog = q.prog := rfl
@[simp] theorem setPending_pc (q : Seq) (p : Option Pending) : (q.setPending p).pc = q.pc := rfl
@[simp] theorem setPending_mu (q : Seq) (p : Option Pending) : (q.setPending p).mu = q.mu := rfl
@[simp] theorem setPending_run (q : Seq) (p : Option Pending) : (q.setPending p).run = q.run := rfl
@[simp] theorem setPending_st (q : Seq) (p : Option Pending) : (q.setPending p).st = q.st := rfl
@[simp] theorem setPending_fault (q : Seq) (p : Option Pending) : (q.setPending p).fault = q.fault := rfl
@[simp] theorem setPending_refused (q : Seq) (p : Option Pending) : (q.setPending p).refused = q.refused := rfl
@[simp] theorem setPending_ticker (q : Seq) (p : Option Pending) : (q.setPending p).ticker = q.ticker := rfl
@[simp] theorem setPending_pending (q : Seq) (p : Option Pending) : (q.setPending p).pending = p := rfl
@[simp] theorem setPending_trace (q : Seq) (p : Option Pending) : (q.setPending p).trace = q.trace := rfl
@[simp] theorem setPending_laps (q : Seq) (p : Option Pending) : (q.setPending p).laps = q.laps := rfl
@[simp] theorem armTicker_prog (q : Seq) (period : Half) : (q.armTicker period).prog = q.prog := rfl
@[simp] theorem armTicker_pc (q : Seq) (period : Half) : (q.armTicker period).pc = q.pc := rfl
@[simp] theorem armTicker_mu (q : Seq) (period : Half) : (q.armTicker period).mu = q.mu := rfl
@[simp] theorem armTicker_run (q : Seq) (period : Half) : (q.armTicker period).run = q.run := rfl
@[simp] theorem armTicker_st (q : Seq) (period : Half) : (q.armTicker period).st = q.st := rfl
@[simp] theorem armTicker_fault (q : Seq) (period : Half) : (q.armTicker period).fault = q.fault := rfl
@[simp] theorem armTicker_refused (q : Seq) (period : Half) : (q.armTicker period).refused = q.refused := rfl
@[simp] theorem armTicker_ticker (q : Seq) (period : Half) : (q.armTicker period).ticker = ⟨true, period, 0⟩ := rfl
@[simp] theorem armTicker_pending (q : Seq) (period : Half) : (q.armTicker period).pending = q.pending := rfl
@[simp] theorem armTicker_trace (q : Seq) (period : Half) : (q.armTicker period).trace = q.trace := rfl
@[simp] theorem armTicker_laps (q : Seq) (period : Half) : (q.armTicker period).laps = q.laps := rfl
@[simp] theorem countTick_prog (q : Seq) : (q.countTick).prog = q.prog := rfl
@[simp] theorem countTick_pc (q : Seq) : (q.countTick).pc = q.pc := rfl
@[simp] theorem countTick_mu (q : Seq) : (q.countTick).mu = q.mu := rfl
@[simp] theorem countTick_run (q : Seq) : (q.countTick).run = q.run := rfl
@[simp] theorem countTick_st (q : Seq) : (q.countTick).st = q.st := rfl
@[simp] theorem countTick_fault (q : Seq) : (q.countTick).fault = q.fault := rfl
@[simp] theorem countTick_refused (q : Seq) : (q.countTick).refused = q.refused := rfl
@[simp] theorem countTick_ticker (q : Seq) : (q.countTick).ticker = { q.ticker with k := q.ticker.k + 1 } := rfl
@[simp] theorem countTick_pending (q : Seq) : (q.countTick).pending = q.pending := rfl
@[simp] theorem countTick_trace (q : Seq) : (q.countTick).trace = q.trace := rfl
@[simp] theorem countTick_laps (q : Seq) : (q.countTick).laps = q.laps := rfl
@[simp] theorem seqRefuse_prog (q : Seq) : (q.refuse).prog = q.prog := rfl
@[simp] theorem seqRefuse_pc (q : Seq) : (q.refuse).pc = q.pc := rfl
@[simp] theorem seqRefuse_mu (q : Seq) : (q.refuse).mu = q.mu := rfl
@[simp] theorem seqRefuse_run (q : Seq) : (q.refuse).run = .halted := rfl
@[simp] theorem seqRefuse_st (q : Seq) : (q.refuse).st = q.st := rfl
@[simp] theorem seqRefuse_fault (q : Seq) : (q.refuse).fault = q.fault := rfl
@[simp] theorem seqRefuse_refused (q : Seq) : (q.refuse).refused = true := rfl
@[simp] theorem seqRefuse_ticker (q : Seq) : (q.refuse).ticker = q.ticker := rfl
@[simp] theorem seqRefuse_pending (q : Seq) : (q.refuse).pending = q.pending := rfl
@[simp] theorem seqRefuse_trace (q : Seq) : (q.refuse).trace = q.trace := rfl
@[simp] theorem seqRefuse_laps (q : Seq) : (q.refuse).laps = q.laps := rfl

/-! What advancing leaves alone (R29): everything but `pc`, `run` and the lap count. -/

@[simp] theorem advance_prog (q : Seq) : q.advance.prog = q.prog := by unfold Seq.advance; split <;> [rfl; (split <;> rfl)]
@[simp] theorem advance_mu (q : Seq) : q.advance.mu = q.mu := by unfold Seq.advance; split <;> [rfl; (split <;> rfl)]
@[simp] theorem advance_st (q : Seq) : q.advance.st = q.st := by unfold Seq.advance; split <;> [rfl; (split <;> rfl)]
@[simp] theorem advance_fault (q : Seq) : q.advance.fault = q.fault := by unfold Seq.advance; split <;> [rfl; (split <;> rfl)]
@[simp] theorem advance_refused (q : Seq) : q.advance.refused = q.refused := by unfold Seq.advance; split <;> [rfl; (split <;> rfl)]
@[simp] theorem advance_ticker (q : Seq) : q.advance.ticker = q.ticker := by unfold Seq.advance; split <;> [rfl; (split <;> rfl)]
@[simp] theorem advance_pending (q : Seq) : q.advance.pending = q.pending := by unfold Seq.advance; split <;> [rfl; (split <;> rfl)]
@[simp] theorem advance_trace (q : Seq) : q.advance.trace = q.trace := by unfold Seq.advance; split <;> [rfl; (split <;> rfl)]

@[simp] theorem complete_prog (q : Seq) (st : Status) : (q.complete st).prog = q.prog := by simp [Seq.complete]
@[simp] theorem complete_mu (q : Seq) (st : Status) : (q.complete st).mu = 0 := by simp [Seq.complete]
@[simp] theorem complete_st (q : Seq) (st : Status) : (q.complete st).st = st := by simp [Seq.complete]
@[simp] theorem complete_fault (q : Seq) (st : Status) : (q.complete st).fault = q.fault := by simp [Seq.complete]
@[simp] theorem complete_refused (q : Seq) (st : Status) : (q.complete st).refused = q.refused := by simp [Seq.complete]
@[simp] theorem complete_ticker (q : Seq) (st : Status) : (q.complete st).ticker = q.ticker := by simp [Seq.complete]
@[simp] theorem complete_pending (q : Seq) (st : Status) : (q.complete st).pending = q.pending := by simp [Seq.complete]
@[simp] theorem complete_trace (q : Seq) (st : Status) : (q.complete st).trace = q.trace := by simp [Seq.complete]

@[simp] theorem finish_prog (q : Seq) (n : Nat) : (q.finish n).prog = q.prog := by unfold Seq.finish; split <;> simp
@[simp] theorem finish_fault (q : Seq) (n : Nat) : (q.finish n).fault = q.fault := by unfold Seq.finish; split <;> simp
@[simp] theorem finish_refused (q : Seq) (n : Nat) : (q.finish n).refused = q.refused := by unfold Seq.finish; split <;> simp
@[simp] theorem finish_ticker (q : Seq) (n : Nat) : (q.finish n).ticker = q.ticker := by unfold Seq.finish; split <;> simp
@[simp] theorem finish_pending (q : Seq) (n : Nat) : (q.finish n).pending = q.pending := by unfold Seq.finish; split <;> simp
@[simp] theorem finish_trace (q : Seq) (n : Nat) : (q.finish n).trace = q.trace := by unfold Seq.finish; split <;> simp
@[simp] theorem wake_prog (q : Seq) (n : Nat) : (q.wake n).prog = q.prog := by simp [Seq.wake]
@[simp] theorem wake_fault (q : Seq) (n : Nat) : (q.wake n).fault = q.fault := by simp [Seq.wake]
@[simp] theorem wake_refused (q : Seq) (n : Nat) : (q.wake n).refused = q.refused := by simp [Seq.wake]
@[simp] theorem wake_ticker (q : Seq) (n : Nat) : (q.wake n).ticker = q.ticker := by simp [Seq.wake]
@[simp] theorem wake_pending (q : Seq) (n : Nat) : (q.wake n).pending = q.pending := by simp [Seq.wake]
@[simp] theorem wake_trace (q : Seq) (n : Nat) : (q.wake n).trace = q.trace := by simp [Seq.wake]

@[simp] theorem record_prog (q : Seq) (u : UnitId) (code : FaultCode) (info : FaultInfo) : (q.record u code info).prog = q.prog := by unfold Seq.record; split <;> rfl
@[simp] theorem record_pc (q : Seq) (u : UnitId) (code : FaultCode) (info : FaultInfo) : (q.record u code info).pc = q.pc := by unfold Seq.record; split <;> rfl
@[simp] theorem record_mu (q : Seq) (u : UnitId) (code : FaultCode) (info : FaultInfo) : (q.record u code info).mu = q.mu := by unfold Seq.record; split <;> rfl
@[simp] theorem record_run (q : Seq) (u : UnitId) (code : FaultCode) (info : FaultInfo) : (q.record u code info).run = q.run := by unfold Seq.record; split <;> rfl
@[simp] theorem record_st (q : Seq) (u : UnitId) (code : FaultCode) (info : FaultInfo) : (q.record u code info).st = q.st := by unfold Seq.record; split <;> rfl
@[simp] theorem record_refused (q : Seq) (u : UnitId) (code : FaultCode) (info : FaultInfo) : (q.record u code info).refused = q.refused := by unfold Seq.record; split <;> rfl
@[simp] theorem record_ticker (q : Seq) (u : UnitId) (code : FaultCode) (info : FaultInfo) : (q.record u code info).ticker = q.ticker := by unfold Seq.record; split <;> rfl
@[simp] theorem record_pending (q : Seq) (u : UnitId) (code : FaultCode) (info : FaultInfo) : (q.record u code info).pending = q.pending := by unfold Seq.record; split <;> rfl
@[simp] theorem record_trace (q : Seq) (u : UnitId) (code : FaultCode) (info : FaultInfo) : (q.record u code info).trace = q.trace := by unfold Seq.record; split <;> rfl
@[simp] theorem record_laps (q : Seq) (u : UnitId) (code : FaultCode) (info : FaultInfo) : (q.record u code info).laps = q.laps := by unfold Seq.record; split <;> rfl

/-- The first fault is kept (R250). -/
theorem record_fault (q : Seq) (u : UnitId) (code : FaultCode) (info : FaultInfo) :
    (q.record u code info).fault = some (q.fault.getD ⟨code, u, q.pc, q.mu, info⟩) := by
  unfold Seq.record; split <;> simp_all

@[simp] theorem raise_prog (q : Seq) (cfg : Config) (u : UnitId) (code : FaultCode) (info : FaultInfo) : (q.raise cfg u code info).prog = q.prog := by
  unfold Seq.raise; split <;> [simp; (split <;> simp)]
@[simp] theorem raise_refused (q : Seq) (cfg : Config) (u : UnitId) (code : FaultCode) (info : FaultInfo) : (q.raise cfg u code info).refused = q.refused := by
  unfold Seq.raise; split <;> [simp; (split <;> simp)]
@[simp] theorem raise_ticker (q : Seq) (cfg : Config) (u : UnitId) (code : FaultCode) (info : FaultInfo) : (q.raise cfg u code info).ticker = q.ticker := by
  unfold Seq.raise; split <;> [simp; (split <;> simp)]
@[simp] theorem raise_pending (q : Seq) (cfg : Config) (u : UnitId) (code : FaultCode) (info : FaultInfo) : (q.raise cfg u code info).pending = q.pending := by
  unfold Seq.raise; split <;> [simp; (split <;> simp)]
@[simp] theorem raise_trace (q : Seq) (cfg : Config) (u : UnitId) (code : FaultCode) (info : FaultInfo) : (q.raise cfg u code info).trace = q.trace := by
  unfold Seq.raise; split <;> [simp; (split <;> simp)]

/-! ## Lines -/

@[simp] theorem get_drive_same (ls : Lines) (line : Line) (v : Level) :
    (ls.drive line v).get line = v := by cases line <;> rfl
theorem get_drive_of_ne (ls : Lines) (line k : Line) (v : Level) (h : k ≠ line) :
    (ls.drive line v).get k = ls.get k := by
  cases line <;> cases k <;> first | rfl | exact absurd rfl h

@[simp] theorem drive_cs_cs (ls : Lines) (v : Level) : (ls.drive .cs v).cs = v := rfl
@[simp] theorem drive_cs_dc (ls : Lines) (v : Level) : (ls.drive .cs v).dc = ls.dc := rfl
@[simp] theorem drive_cs_rst (ls : Lines) (v : Level) : (ls.drive .cs v).rst = ls.rst := rfl
@[simp] theorem drive_cs_pwr (ls : Lines) (v : Level) : (ls.drive .cs v).pwr = ls.pwr := rfl
@[simp] theorem drive_dc_cs (ls : Lines) (v : Level) : (ls.drive .dc v).cs = ls.cs := rfl
@[simp] theorem drive_dc_dc (ls : Lines) (v : Level) : (ls.drive .dc v).dc = v := rfl
@[simp] theorem drive_dc_rst (ls : Lines) (v : Level) : (ls.drive .dc v).rst = ls.rst := rfl
@[simp] theorem drive_dc_pwr (ls : Lines) (v : Level) : (ls.drive .dc v).pwr = ls.pwr := rfl
@[simp] theorem drive_rst_cs (ls : Lines) (v : Level) : (ls.drive .rst v).cs = ls.cs := rfl
@[simp] theorem drive_rst_dc (ls : Lines) (v : Level) : (ls.drive .rst v).dc = ls.dc := rfl
@[simp] theorem drive_rst_rst (ls : Lines) (v : Level) : (ls.drive .rst v).rst = v := rfl
@[simp] theorem drive_rst_pwr (ls : Lines) (v : Level) : (ls.drive .rst v).pwr = ls.pwr := rfl
@[simp] theorem drive_pwr_cs (ls : Lines) (v : Level) : (ls.drive .pwr v).cs = ls.cs := rfl
@[simp] theorem drive_pwr_dc (ls : Lines) (v : Level) : (ls.drive .pwr v).dc = ls.dc := rfl
@[simp] theorem drive_pwr_rst (ls : Lines) (v : Level) : (ls.drive .pwr v).rst = ls.rst := rfl
@[simp] theorem drive_pwr_pwr (ls : Lines) (v : Level) : (ls.drive .pwr v).pwr = v := rfl

end Sys2Proof.Machine
end

