-- ==== Sys2Proof/Laws/Ops.lean ====
section
/-! SUPPORT. One lemma for each shared operation of Machine/Ops.lean that says all it can do, and the
one lemma about `exec`: every operation is a check, then a micro-operation of its list. -/

namespace Sys2Proof.Machine

/-! ## Advancing (R29) -/

/-- The three outcomes of R29. -/
theorem advance_cases (q : Seq) :
    (q.pc + 1 < q.prog.ops.length ∧ q.advance = { q with pc := q.pc + 1 }) ∨
    (¬ q.pc + 1 < q.prog.ops.length ∧ 0 < q.prog.body.length ∧
      q.advance = { q with pc := q.prog.prologue.length, laps := q.laps + 1 }) ∨
    (¬ q.pc + 1 < q.prog.ops.length ∧ q.prog.body.length = 0 ∧
      q.advance = { q with run := .done }) := by
  unfold Seq.advance
  split
  · exact .inl ⟨‹_›, rfl⟩
  · split
    · exact .inr (.inl ⟨‹_›, ‹_›, rfl⟩)
    · exact .inr (.inr ⟨‹_›, by omega, rfl⟩)

/-- A unit that goes on after an operation is at an operation of its program (R29). -/
theorem advance_inProgram (q : Seq) (h : ¬ q.advance.run = .done) :
    q.advance.pc < q.advance.prog.ops.length := by
  rcases advance_cases q with ⟨h1, e⟩ | ⟨_, h2, e⟩ | ⟨_, _, e⟩ <;> rw [e] at h ⊢
  · exact h1
  · simp [Program.ops]; omega
  · exact absurd rfl h

/-- Advancing either leaves `run` or ends the program. -/
theorem advance_run (q : Seq) : q.advance.run = q.run ∨ q.advance.run = .done := by
  rcases advance_cases q with ⟨_, e⟩ | ⟨_, _, e⟩ | ⟨_, _, e⟩ <;> simp [e]

/-- Completing either leaves `run` or ends the program. -/
theorem complete_run (q : Seq) (st : Status) :
    (q.complete st).run = q.run ∨ (q.complete st).run = .done :=
  advance_run { q with mu := 0, st := st }

/-- A finished micro-operation: the next one of the list, or the operation completes (R30). -/
theorem finish_cases (q : Seq) (n : Nat) :
    (q.mu + 1 < n ∧ q.finish n = { q with mu := q.mu + 1 }) ∨
    (¬ q.mu + 1 < n ∧ q.finish n = q.complete .ok) := by
  unfold Seq.finish
  split
  · exact .inl ⟨‹_›, rfl⟩
  · exact .inr ⟨‹_›, rfl⟩

/-- Finishing either leaves `run` or ends the program. -/
theorem finish_run (q : Seq) (n : Nat) : (q.finish n).run = q.run ∨ (q.finish n).run = .done := by
  rcases finish_cases q n with ⟨_, e⟩ | ⟨_, e⟩ <;> rw [e]
  · exact .inl rfl
  · exact advance_run { q with mu := 0, st := .ok }

/-! ## Raising a fault (R250, R256) -/

/-- A halting fault: the record is written and the unit halts. -/
theorem raise_of_halts {cfg : Config} {code : FaultCode} (h : code.halts cfg = true) (u : UnitId)
    (info : FaultInfo) (q : Seq) :
    q.raise cfg u code info = { q.record u code info with run := .halted } := by
  simp [Seq.raise, h]

/-- A TRANSMIT_FAULT that does not halt: the record is written, the operation completes (R256). -/
theorem raise_transmit_continues {cfg : Config} (h : cfg.onTransmitFault = .continues) (u : UnitId)
    (info : FaultInfo) (q : Seq) :
    q.raise cfg u .transmitFault info =
      (q.record u .transmitFault info).complete .transmitFault := by
  simp [Seq.raise, FaultCode.halts, h]

/-- The fault codes a check raises all halt (R256). -/
theorem check_codes_halt (cfg : Config) (code : FaultCode)
    (h : code = .illegalOp ∨ code = .protocol ∨ code = .frameViolation ∨ code = .param) :
    code.halts cfg = true := by rcases h with h | h | h | h <;> subst h <;> rfl

/-! ## Micro-operations -/

/-- What a sequencer step of micro-operation `m` in a list of `n` leaves (R30). -/
def itemStep (u : UnitId) (n : Nat) (m : Micro) (s : State) : State :=
  if m.wait.isSome then perform u m s else (perform u m s).mapSeq u (Seq.finish n)

/-- A sequencer step answers a next state exactly where `mu` is inside the list. -/
theorem runItems_next {u : UnitId} {items : List Micro} {s t : State} :
    runItems u items s = .next t ↔
      ∃ m, items[(s.seq u).mu]? = some m ∧ t = itemStep u items.length m s := by
  unfold runItems itemStep
  cases items[(s.seq u).mu]? with
  | none => simp
  | some m =>
    simp only [Host.Outcome.next.injEq, Option.some.injEq, exists_eq_left']
    exact eq_comm

/-- The first micro-operation of a list runs. -/
theorem runItems_first (u : UnitId) (m : Micro) (rest : List Micro) (s : State)
    (h : (s.seq u).mu = 0) :
    runItems u (m :: rest) s = .next (itemStep u (m :: rest).length m s) :=
  runItems_next.mpr ⟨m, by simp [h], rfl⟩

/-- No step writes the launch inputs, the draws or the other unit's sequencer. -/
@[simp] theorem perform_cfg (u : UnitId) (m : Micro) (s : State) :
    (perform u m s).cfg = s.cfg := by
  cases m <;> simp [perform, State.startSleep, State.startTick]
@[simp] theorem perform_draw (u : UnitId) (m : Micro) (s : State) :
    (perform u m s).draw = s.draw := by
  cases m <;> simp [perform, State.startSleep, State.startTick]
@[simp] theorem itemStep_cfg (u : UnitId) (n : Nat) (m : Micro) (s : State) :
    (itemStep u n m s).cfg = s.cfg := by unfold itemStep; split <;> simp
@[simp] theorem itemStep_draw (u : UnitId) (n : Nat) (m : Micro) (s : State) :
    (itemStep u n m s).draw = s.draw := by unfold itemStep; split <;> simp

/-! ## Every operation is a check and a list (R255, R30) -/

/-- The unit whose sequencer an operation runs on: the one unit its row lists, or, for the timer
operations, the one that moves. -/
def execUnit (i : Instr) (s : State) : UnitId :=
  match i with
  | .lineSet _ _ | .spiWrite _ | .dispInit | .dispCmd _ _ | .dispData _ => .d
  | .pulseWrite _ | .chaseStep | .wheelStep => .l
  | .sleep _ | .tickerSet _ | .tickerNext => s.actor

/-- The check of an operation after decoding (R255): whether it passes, and what it raises where it
does not. -/
def execCheck (i : Instr) (s : State) : Bool × FaultCode × FaultInfo :=
  match i with
  | .spiWrite bytes => (frameOpen bytes s.lines, .frameViolation, .level s.lines.cs)
  | .dispInit => (initLegal s.drv s.tfSinceInit, .protocol, .driver s.drv)
  | .dispCmd _ _ | .dispData _ => (displayLegal s.drv, .protocol, .driver s.drv)
  | .pulseWrite count => (count.toNat == s.cfg.nPixels, .param, .value count.toNat)
  | .tickerSet period => (period.toNat != 0, .param, .value period.toNat)
  | .tickerNext => ((s.seq s.actor).ticker.armed, .param, .value 0)
  | .lineSet _ _ | .sleep _ | .chaseStep | .wheelStep => (true, .param, .value 0)

/-- Every operation's meaning in one form. -/
theorem exec_eq (i : Instr) (s : State) :
    exec i s = runChecked (execUnit i s) (execCheck i s).1 (execCheck i s).2.1
      (execCheck i s).2.2 (itemsOf s.cfg i) s := by
  cases i <;> first
    | rfl
    | simp [exec, execLineSet, execSleep, execChaseStep, execWheelStep, execUnit, execCheck,
        itemsOf, runChecked]

/-- What an operation's sequencer step can do: raise the fault of its check, at its start and with no
effect, or run one micro-operation. -/
theorem exec_next {i : Instr} {s t : State} (h : exec i s = .next t) :
    ((s.seq (execUnit i s)).mu = 0 ∧ (execCheck i s).1 = false ∧
      t = s.raise (execUnit i s) (execCheck i s).2.1 (execCheck i s).2.2) ∨
    (((s.seq (execUnit i s)).mu = 0 → (execCheck i s).1 = true) ∧
      ∃ m, (itemsOf s.cfg i)[(s.seq (execUnit i s)).mu]? = some m ∧
        t = itemStep (execUnit i s) (itemsOf s.cfg i).length m s) := by
  rw [exec_eq, runChecked] at h
  split at h
  · rename_i hc
    exact .inl ⟨hc.1, hc.2, by simpa using h.symm⟩
  · rename_i hc
    refine .inr ⟨fun h0 => ?_, runItems_next.mp h⟩
    by_contra hn
    exact hc ⟨h0, by simpa using hn⟩

/-- An operation that passes its check runs its micro-operation (R28). -/
theorem exec_of_item {i : Instr} {s : State} {m : Micro}
    (hc : (s.seq (execUnit i s)).mu = 0 → (execCheck i s).1 = true)
    (hm : (itemsOf s.cfg i)[(s.seq (execUnit i s)).mu]? = some m) :
    exec i s = .next (itemStep (execUnit i s) (itemsOf s.cfg i).length m s) := by
  rw [exec_eq, runChecked, if_neg]
  · exact runItems_next.mpr ⟨m, hm, rfl⟩
  · rintro ⟨h0, hf⟩
    simp [hc h0] at hf

/-- An operation whose check fails raises the fault, with no effect (R255). -/
theorem exec_of_check_fails {i : Instr} {s : State} (h0 : (s.seq (execUnit i s)).mu = 0)
    (hc : (execCheck i s).1 = false) :
    exec i s = .next (s.raise (execUnit i s) (execCheck i s).2.1 (execCheck i s).2.2) := by
  rw [exec_eq, runChecked, if_pos ⟨h0, hc⟩]

end Sys2Proof.Machine
end

