-- ==== Sys2Proof/Laws/Step.lean ====
section
/-! SUPPORT. What one step of the machine is: which agent moves, and what its step answers. -/

namespace Sys2Proof.Machine

/-! ## The agent that moves -/

/-- Every agent is somewhere in the round. -/
theorem mem_agentsFrom (a b : Agent) : b ∈ agentsFrom a := by
  rcases a with (_ | _) | _ | _ | (_ | _) <;> rcases b with (_ | _) | _ | _ | (_ | _) <;> decide

/-- The round begins with the drawn agent. -/
theorem head_agentsFrom (a : Agent) : (agentsFrom a).head? = some a := by
  rcases a with (_ | _) | _ | _ | (_ | _) <;> decide

/-- The agent that moves has an enabled step. -/
theorem mover_enabled {s : State} {a : Agent} (h : s.mover = some a) : s.enabled a = true :=
  List.find?_some h

/-- No agent moves exactly where none has an enabled step. -/
theorem mover_none {s : State} : s.mover = none ↔ ∀ a, s.enabled a = false := by
  simp only [State.mover, List.find?_eq_none, Bool.not_eq_true]
  exact ⟨fun h a => h a (mem_agentsFrom _ a), fun h a _ => h a⟩

/-- The drawn agent moves where it has an enabled step. -/
theorem mover_of_drawn {s : State} (h : s.enabled s.draw.agent = true) :
    s.mover = some s.draw.agent := by
  have h1 := head_agentsFrom s.draw.agent
  unfold State.mover
  cases hl : agentsFrom s.draw.agent with
  | nil => simp [hl] at h1
  | cons b rest =>
    simp only [hl, List.head?_cons, Option.some.injEq] at h1
    subst h1
    simp [h]

/-- Where one agent alone has an enabled step, it moves, whichever is drawn. -/
theorem mover_of_only {s : State} {a : Agent} (h : ∀ b, s.enabled b = true ↔ b = a) :
    s.mover = some a := by
  cases hm : s.mover with
  | none => simpa [mover_none.mp hm a] using (h a).mpr rfl
  | some b => rw [(h b).mp (mover_enabled hm)]

/-! ## Steps -/

/-- A step is the step of the agent that moves, then the next choices are taken. -/
theorem step_of_mover {s : State} {a : Agent} (h : s.mover = some a) :
    step s = afterStep ((s.withAgent a).agentStep a) := by simp [step, State.move, h]

/-- What a step that answers a next state is. -/
theorem step_cases {s t : State} (h : step s = .next t) :
    ∃ a r, s.mover = some a ∧ (s.withAgent a).agentStep a = .next r ∧ t = r.nextDraw := by
  cases hm : s.mover with
  | none => simp [step, State.move, hm] at h
  | some a =>
    rw [step_of_mover hm] at h
    cases hr : (s.withAgent a).agentStep a with
    | next r => exact ⟨a, r, rfl, hr, by simpa [afterStep, hr] using h.symm⟩
    | fault r => simp [afterStep, hr] at h
    | refused r => simp [afterStep, hr] at h

/-- A step of an agent that answers a next state. -/
theorem step_of_agentStep {s r : State} {a : Agent} (hm : s.mover = some a)
    (hr : (s.withAgent a).agentStep a = .next r) : step s = .next r.nextDraw := by
  rw [step_of_mover hm, hr]; rfl

/-- The sequencer step of a unit whose operation decodes is that operation's meaning (R28). -/
theorem unitStep_of_ok {s : State} {u : UnitId} {op : Op} {i : Instr}
    (ho : (s.seq u).op? = some op) (hd : op.decode u = .ok i) : s.unitStep u = exec i s := by
  simp [State.unitStep, ho, hd]

/-- The operation a unit is at, by its word. -/
theorem current_eq_some {s : State} {u : UnitId} {i : Instr} :
    s.current u = some i ↔ ∃ op, (s.seq u).op? = some op ∧ op.decode u = .ok i := by
  unfold State.current
  cases (s.seq u).op? with
  | none => simp
  | some op => cases hd : op.decode u <;> simp [hd]

/-- The sequencer step of a unit at an operation. -/
theorem unitStep_of_current {s : State} {u : UnitId} {i : Instr} (h : s.current u = some i) :
    s.unitStep u = exec i s := by
  obtain ⟨op, ho, hd⟩ := current_eq_some.mp h
  exact unitStep_of_ok ho hd

/-- What a sequencer step that answers a next state is (R28, R81). -/
theorem unitStep_next {s t : State} {u : UnitId} (h : s.unitStep u = .next t) :
    (∃ i, s.current u = some i ∧ exec i s = .next t) ∨
    (∃ op, (s.seq u).op? = some op ∧ op.decode u = .illegalOp ∧
      t = s.raise u .illegalOp (.word op.word)) ∨
    (∃ op, (s.seq u).op? = some op ∧ op.decode u = .payloadLength ∧ t = s.refuse u) := by
  unfold State.unitStep at h
  split at h
  · cases h
  · rename_i op ho
    split at h
    · rename_i i hd
      exact .inl ⟨i, current_eq_some.mpr ⟨op, ho, hd⟩, h⟩
    · exact .inr (.inl ⟨op, ho, ‹_›, by simpa using h.symm⟩)
    · exact .inr (.inr ⟨op, ho, ‹_›, by simpa using h.symm⟩)

/-! ## Channels and timer -/

/-- The three steps of the SPI channel (R123 to R125). -/
theorem spiStep_cases (s : State) :
    (s.draw.spiFault = true ∧ s.spiStep = s.spiFail) ∨
    (s.draw.spiFault = false ∧ ∃ b rest, s.spi.q = b :: rest ∧ s.spiStep = s.spiTransmit b rest) ∨
    (s.draw.spiFault = false ∧ s.spi.q = [] ∧ s.spiStep = s.spiComplete) := by
  unfold State.spiStep
  split
  · exact .inl ⟨‹_›, rfl⟩
  · rename_i hf
    split
    · exact .inr (.inl ⟨by simpa using hf, _, _, ‹_›, rfl⟩)
    · exact .inr (.inr ⟨by simpa using hf, ‹_›, rfl⟩)

/-- Delivery of a transmit fault (R127): the fault path, where the operation is composite, before
the outcome. -/
theorem deliverFault_eq (s : State) :
    s.deliverFault = (if (s.current .d).any isComposite then s.faultPath else s).raise .d
      .transmitFault (.transfer s.d.mu s.spi.sent) := by
  unfold State.deliverFault
  cases s.current .d <;> simp

/-- Emitting a list of events. -/
theorem foldl_emit (es : List Event) (q : Seq) :
    es.foldl (fun q e => q.emit e) q = { q with trace := q.trace ++ es } := by
  induction es generalizing q with
  | nil => simp
  | cons e es ih =>
    rw [List.foldl_cons, ih]
    simp [Seq.emit]

/-- The pulse channel's step in one form (R172). -/
theorem pulseStep_eq (s : State) :
    s.pulseStep =
      ({ s with pulse := ⟨false, []⟩, led := s.led.noteFrame (frameResult s.cfg s.draw) }.mapSeq .l
        fun q => { q with
          trace := q.trace ++ frameEvents (frameResult s.cfg s.draw) s.draw.frameSent s.pulse.snap
        }).wake .l := by
  simp only [State.pulseStep, foldl_emit]

/-- The operation a unit is at depends on its program and pc alone. -/
theorem current_congr {s t : State} {u : UnitId} (hp : (t.seq u).prog = (s.seq u).prog)
    (hc : (t.seq u).pc = (s.seq u).pc) : t.current u = s.current u := by
  simp [State.current, Seq.op?, hp, hc]

/-- The micro-operation list of a unit depends on its program, its pc and the configuration. -/
theorem items_congr {s t : State} {u : UnitId} (hg : t.cfg = s.cfg)
    (hp : (t.seq u).prog = (s.seq u).prog) (hc : (t.seq u).pc = (s.seq u).pc) :
    t.items u = s.items u := by simp [State.items, current_congr hp hc, hg]

/-- The list of a unit at an operation. -/
theorem items_of_current {s : State} {u : UnitId} {i : Instr} (h : s.current u = some i) :
    s.items u = itemsOf s.cfg i := by simp [State.items, h]

/-- The success step of the SPI channel in one form (R124). -/
theorem spiComplete_eq (s : State) :
    s.spiComplete = { s with
      spi := { s.spi with busy := false }
      d := (s.d.emit (.spiEnd s.spi.sent .ok)).wake (s.items .d).length } := by
  have h : (State.emit .d (.spiEnd s.spi.sent .ok)
      { s with spi := { s.spi with busy := false } }).items .d = s.items .d :=
    items_congr rfl (by simp [State.emit]) (by simp [State.emit])
  rw [State.spiComplete, State.wake, h]
  rfl

/-- What a unit's pending wait leaves when the timer ends it (R191, R197). -/
def Seq.ended (p : Pending) (q : Seq) : Seq :=
  match p with
  | .sleep ms => (q.emit (.sleep ms)).setPending none
  | .tick => (q.countTick.emit (.tick (q.ticker.k + 1))).setPending none

/-- The timer's step in one form (R191, R197). -/
theorem timerStep_eq {s : State} {u : UnitId} {p : Pending} (h : (s.seq u).pending = some p) :
    s.timerStep u = s.mapSeq u fun q => (q.ended p).wake (s.items u).length := by
  have hi : (s.mapSeq u (Seq.ended p)).items u = s.items u :=
    items_congr (by simp) (by cases p <;> simp [Seq.ended]) (by cases p <;> simp [Seq.ended])
  have he : s.timerStep u = (s.mapSeq u (Seq.ended p)).wake u := by
    unfold State.timerStep
    cases p <;> simp only [h] <;> rfl
  rw [he, State.wake, hi]
  cases u <;> rfl

/-- The pulse channel's step in one form, the woken unit written out (R172). -/
theorem pulseStep_wakes (s : State) :
    s.pulseStep = { s with
      pulse := ⟨false, []⟩
      led := s.led.noteFrame (frameResult s.cfg s.draw)
      l := { s.l with
        trace := s.l.trace
          ++ frameEvents (frameResult s.cfg s.draw) s.draw.frameSent s.pulse.snap
        }.wake (s.items .l).length } := by
  rw [pulseStep_eq, State.wake, items_congr (s := s) rfl rfl rfl]
  rfl

end Sys2Proof.Machine
end

