-- ==== Sys2Proof/Laws/Items.lean ====
section
/-! SUPPORT. The micro-operation lists: what stands where in them, and whose they are. -/

namespace Sys2Proof.Machine

/-- DISP_INIT's list has its first and its last micro-operation. -/
theorem init_length (cfg : Config) : 2 ≤ (initItems cfg).length := by
  simp [initItems, commandItems]

/-- DISP_INIT's list begins with the write of `drv` (R141). -/
theorem init_zero (cfg : Config) : (initItems cfg)[0]? = some (.drv .initializing) := by
  simp [initItems]

/-- An operation its unit's row lists runs on that unit. -/
theorem execUnit_of_allows {i : Instr} {s : State} {u : UnitId} (ha : i.opcode.allows u = true)
    (hu : s.actor = u) : execUnit i s = u := by
  cases i <;> cases u <;> simp_all [Instr.opcode, Opcode.allows, execUnit]

/-- The row of the operation a unit is at lists the unit. -/
theorem current_allows {s : State} {u : UnitId} {i : Instr} (h : s.current u = some i) :
    i.opcode.allows u = true := by
  obtain ⟨op, _, hd⟩ := current_eq_some.mp h
  exact decode_ok_allows hd

/-- The level a list leaves a line at, with one more micro-operation at its end. -/
theorem lastDriven_append_one (line : Line) (xs : List Micro) (m : Micro) :
    lastDriven line (xs ++ [m]) = (match m with
      | .line k v => if k = line then some v else lastDriven line xs
      | _ => lastDriven line xs) := by
  induction xs with
  | nil => cases m <;> simp [lastDriven]
  | cons x xs ih =>
    simp only [List.cons_append, lastDriven]
    rw [ih]
    cases m with
    | line k v => by_cases hk : k = line <;> simp [hk]
    | _ => rfl

/-- In a display operation's list a write comes after CS has been asserted (R153). -/
theorem spi_item_cs {cfg : Config} {i : Instr} (hc : isComposite i = true) {k : Nat}
    {bytes : List Byte} (h : (itemsOf cfg i)[k]? = some (.spi bytes)) :
    lastDriven .cs ((itemsOf cfg i).take k) = some Config.csActive := by
  cases i <;> simp [isComposite] at hc
  · simp only [itemsOf, initItems, resetPulseItems, commandItems] at h ⊢
    cases hm : cfg.initResetMode <;> simp only [hm] at h ⊢
    · rcases k with _|_|_|_|_|_|_|_|_|_|_|_|k <;> simp at h <;> simp [lastDriven]
    · rcases k with _|_|_|_|_|_|_|_|_|_|k <;> simp at h <;> simp [lastDriven]
  · simp only [itemsOf, commandItems] at h ⊢
    rcases k with _|_|_|_|_|_|k <;> simp at h <;> simp [lastDriven]
  · simp only [itemsOf, dataItems] at h ⊢
    rcases k with _|_|_|_|k <;> simp at h <;> simp [lastDriven]

/-- Outside the display operations only SPI_WRITE writes to the SPI channel. -/
theorem noncomposite_spi {cfg : Config} {i : Instr} (hc : isComposite i = false) {k : Nat}
    {bytes : List Byte} (h : (itemsOf cfg i)[k]? = some (.spi bytes)) :
    i = .spiWrite bytes ∧ k = 0 := by
  cases i <;> simp [isComposite] at hc <;> simp only [itemsOf] at h <;>
    (rcases k with _ | k <;> simp at h) <;> simp [h]

/-- Only DISP_INIT writes `drv`: at its start and at its end (R140). -/
theorem drv_item {cfg : Config} {i : Instr} {k : Nat} {d : Driver} :
    ((itemsOf cfg i)[k]? = some (.drv d) → i = .dispInit ∧ k = 0 ∧ d = .initializing) ∧
    ((itemsOf cfg i)[k]? = some .drvReady → i = .dispInit ∧ k + 1 = (itemsOf cfg i).length) := by
  cases i
  case dispInit =>
    simp only [itemsOf, initItems, resetPulseItems, commandItems]
    cases hm : cfg.initResetMode <;> simp only
    · rcases k with _|_|_|_|_|_|_|_|_|_|_|_|k <;> simp <;> exact Eq.symm
    · rcases k with _|_|_|_|_|_|_|_|_|_|k <;> simp <;> exact Eq.symm
  case dispCmd =>
    simp only [itemsOf, commandItems]
    rcases k with _|_|_|_|_|_|k <;> simp
  case dispData =>
    simp only [itemsOf, dataItems]
    rcases k with _|_|_|_|k <;> simp
  all_goals (simp only [itemsOf]; rcases k with _ | k <;> simp)

/-- Each unit's operations act on what the unit owns alone (R27). -/
theorem item_unit {cfg : Config} {i : Instr} {k : Nat} {m : Micro}
    (h : (itemsOf cfg i)[k]? = some m) :
    (i.opcode.allows .d = true → m ≠ .frame ∧ m ≠ .chase ∧ m ≠ .wheel) ∧
    (i.opcode.allows .l = true →
      (∀ b, m ≠ .spi b) ∧ (∀ a b, m ≠ .line a b) ∧ (∀ d, m ≠ .drv d) ∧ m ≠ .drvReady) := by
  cases i
  case dispInit =>
    simp only [itemsOf, initItems, resetPulseItems, commandItems] at h
    cases hm : cfg.initResetMode <;> simp only [hm] at h
    · rcases k with _|_|_|_|_|_|_|_|_|_|_|_|k <;> simp at h <;> subst h <;>
        simp [Instr.opcode, Opcode.allows]
    · rcases k with _|_|_|_|_|_|_|_|_|_|k <;> simp at h <;> subst h <;>
        simp [Instr.opcode, Opcode.allows]
  case dispCmd =>
    simp only [itemsOf, commandItems] at h
    rcases k with _|_|_|_|_|_|k <;> simp at h <;> subst h <;> simp [Instr.opcode, Opcode.allows]
  case dispData =>
    simp only [itemsOf, dataItems] at h
    rcases k with _|_|_|_|k <;> simp at h <;> subst h <;> simp [Instr.opcode, Opcode.allows]
  all_goals
    (simp only [itemsOf] at h
     rcases k with _ | k <;> simp at h <;> subst h <;> simp [Instr.opcode, Opcode.allows])

end Sys2Proof.Machine
end

