-- ==== Sys2Proof/Laws/PerInstr.lean ====
section
/-! SUPPORT. Statements made per instruction, about its syntax. `EncodedWordInRow` (R84): the word of a
well-formed instruction belongs to its row and to no other. -/

namespace Sys2Proof.Laws.EncodedWordInRow

/-- The word of a well-formed instruction is its row's, by the row's match and mask, and no other
row's (R84). -/
def Statement (i : Instr) : Prop :=
  i.wf = true → ∀ o : Opcode, (encode i).word &&& o.mask = o.matchWord ↔ o = i.opcode

/-- A word's row is told by its fields. -/
theorem of_fields {i : Instr} (h : i.wf = true → i.opcode.fieldsOk i.argBits i.immBits) :
    Statement i := by
  intro hw o
  rw [row_iff]
  simp only [encode, opcField_packWord, argField_packWord, immField_packWord]
  constructor
  · rintro ⟨h1, -⟩
    have := congrArg Opcode.ofBits h1
    simpa using this.symm
  · rintro rfl
    exact ⟨rfl, h hw⟩

theorem lineSet (line : Line) (level : Level) : Statement (.lineSet line level) :=
  of_fields fun _ =>
    ⟨by revert level; cases line <;> decide, by cases level; exacts [.inl rfl, .inr rfl]⟩

theorem spiWrite (bytes : List Byte) : Statement (.spiWrite bytes) := of_fields fun _ => rfl

theorem dispInit : Statement .dispInit := of_fields fun _ => ⟨rfl, rfl⟩

theorem dispCmd (op : Byte) (payload : List Byte) : Statement (.dispCmd op payload) :=
  of_fields fun _ => trivial

theorem dispData (payload : List Byte) : Statement (.dispData payload) := of_fields fun _ => rfl

theorem pulseWrite (count : Half) : Statement (.pulseWrite count) := of_fields fun _ => rfl

theorem sleep (ms : Half) : Statement (.sleep ms) := of_fields fun _ => rfl

theorem tickerSet (period : Half) : Statement (.tickerSet period) := of_fields fun _ => rfl

theorem tickerNext : Statement .tickerNext := of_fields fun _ => ⟨rfl, rfl⟩

theorem chaseStep : Statement .chaseStep := of_fields fun _ => ⟨rfl, rfl⟩

theorem wheelStep : Statement .wheelStep := of_fields fun _ => ⟨rfl, rfl⟩

end Sys2Proof.Laws.EncodedWordInRow
end

