-- ==== Sys2Proof/Laws/Runs.lean ====
section
/-! SUPPORT. Runs of several steps, which agent moves where the other unit is quiet, and what the
invariant says of a unit that does not wait. -/

namespace Sys2Proof.Machine

/-- The first step of a run. -/
theorem run_succ (k : Nat) {s t : State} (h : step s = .next t) :
    core.run (k + 1) s = core.run k t := by
  have : ∀ (M : Host.Core) (s t : M.State), M.step s = .next t → M.run (k + 1) s = M.run k t := by
    intro M s t h
    simp [Host.Core.run, h]
  exact this core s t h

/-- A run in two parts. -/
theorem run_add (a b : Nat) {s t : State} (h : core.run a s = .next t) :
    core.run (a + b) s = core.run b t := by
  have key : ∀ (M : Host.Core) (s t : M.State), M.run a s = .next t →
      M.run (a + b) s = M.run b t := by
    clear h
    intro M
    induction a with
    | zero =>
      intro s t h
      simp only [Host.Core.run, Host.Outcome.next.injEq] at h
      simp [h]
    | succ a ih =>
      intro s t h
      rw [show a + 1 + b = (a + b) + 1 by omega]
      cases hs : M.step s with
      | next r =>
        simp only [Host.Core.run, hs] at h ⊢
        exact ih r t h
      | fault r => simp [Host.Core.run, hs] at h
      | refused r => simp [Host.Core.run, hs] at h
  exact key core s t h

/-- The first step of a run that answers a state. -/
theorem step_of_run_succ {n : Nat} {s t : State} (h : core.run (n + 1) s = .next t) :
    ∃ r, step s = .next r ∧ core.run n r = .next t := by
  cases hs : step s with
  | next r => exact ⟨r, rfl, (run_succ n hs).symm.trans h⟩
  | fault r =>
    have : core.step s = .fault r := hs
    simp [Host.Core.run, this] at h
  | refused r =>
    have : core.step s = .refused r := hs
    simp [Host.Core.run, this] at h

/-- A run of `n` steps reaches its end. -/
theorem reaches_of_run {n : Nat} {s t : State} (h : core.run n s = .next t) : Reaches s t := by
  induction n generalizing s with
  | zero =>
    exact Host.Outcome.next.inj h ▸ .refl
  | succ n ih =>
    obtain ⟨r, hs, hr⟩ := step_of_run_succ h
    exact .head hs (ih hr)

/-- A state that is reached is reached in some number of steps. -/
theorem run_of_reaches {s t : State} (h : Reaches s t) : ∃ n, core.run n s = .next t := by
  induction h using Relation.ReflTransGen.head_induction_on with
  | refl => exact ⟨0, rfl⟩
  | head hs _ ih =>
    obtain ⟨n, hn⟩ := ih
    exact ⟨n + 1, (run_succ n hs).trans hn⟩

/-! ## The fault-free premises (R252) -/

/-- A run that is free of SPI faults is so for any number of steps. -/
theorem State.SpiFaultFree.for {s : State} (h : s.SpiFaultFree) (n : Nat) : s.SpiFaultFreeFor n :=
  fun _ _ _ hr => h _ (reaches_of_run hr)

/-- Freedom of SPI faults for every number of steps is that of the run. -/
theorem spiFaultFree_iff {s : State} : s.SpiFaultFree ↔ ∀ n, s.SpiFaultFreeFor n :=
  ⟨fun h n => h.for n, fun h t ht => by
    obtain ⟨n, hn⟩ := run_of_reaches ht
    exact h (n + 1) n (by omega) t hn⟩

/-- A run that is free of pulse faults is so for any number of steps. -/
theorem State.PulseFaultFree.for {s : State} (h : s.PulseFaultFree) (n : Nat) :
    s.PulseFaultFreeFor n :=
  fun _ _ _ hr => h _ (reaches_of_run hr)

/-- Freedom of pulse faults for every number of steps is that of the run. -/
theorem pulseFaultFree_iff {s : State} : s.PulseFaultFree ↔ ∀ n, s.PulseFaultFreeFor n :=
  ⟨fun h n => h.for n, fun h t ht => by
    obtain ⟨n, hn⟩ := run_of_reaches ht
    exact h (n + 1) n (by omega) t hn⟩

/-- The premise at the first state. -/
theorem State.SpiFaultFreeFor.now {s : State} {n : Nat} (h : s.SpiFaultFreeFor n) (hn : 0 < n) :
    s.NoSpiFaultNow := h 0 hn s rfl

/-- The premise after a step. -/
theorem State.SpiFaultFreeFor.next {s t : State} {n : Nat} (h : s.SpiFaultFreeFor (n + 1))
    (hs : step s = .next t) : t.SpiFaultFreeFor n :=
  fun k hk r hr => h (k + 1) (by omega) r ((run_succ k hs).trans hr)

/-- The premise at the first state. -/
theorem State.PulseFaultFreeFor.now {s : State} {n : Nat} (h : s.PulseFaultFreeFor n)
    (hn : 0 < n) : s.NoPulseFaultNow := h 0 hn s rfl

/-- The premise after a step. -/
theorem State.PulseFaultFreeFor.next {s t : State} {n : Nat} (h : s.PulseFaultFreeFor (n + 1))
    (hs : step s = .next t) : t.PulseFaultFreeFor n :=
  fun k hk r hr => h (k + 1) (by omega) r ((run_succ k hs).trans hr)

/-- The premise one step at a time. -/
theorem spiFaultFreeFor_succ {s : State} {n : Nat} (h0 : s.NoSpiFaultNow)
    (h : ∀ t, step s = .next t → t.SpiFaultFreeFor n) : s.SpiFaultFreeFor (n + 1) := by
  intro k hk r hr
  cases k with
  | zero => exact Host.Outcome.next.inj hr ▸ h0
  | succ k =>
    obtain ⟨t, ht, hr'⟩ := step_of_run_succ hr
    exact h t ht k (by omega) r hr'

/-- The premise one step at a time. -/
theorem pulseFaultFreeFor_succ {s : State} {n : Nat} (h0 : s.NoPulseFaultNow)
    (h : ∀ t, step s = .next t → t.PulseFaultFreeFor n) : s.PulseFaultFreeFor (n + 1) := by
  intro k hk r hr
  cases k with
  | zero => exact Host.Outcome.next.inj hr ▸ h0
  | succ k =>
    obtain ⟨t, ht, hr'⟩ := step_of_run_succ hr
    exact h t ht k (by omega) r hr'

/-- No step, no premise. -/
theorem spiFaultFreeFor_zero (s : State) : s.SpiFaultFreeFor 0 := fun _ hk => absurd hk (by omega)

/-- No step, no premise. -/
theorem pulseFaultFreeFor_zero (s : State) : s.PulseFaultFreeFor 0 :=
  fun _ hk => absurd hk (by omega)

/-- A run in its first step and after it. -/
theorem spiFaultFree_step {s : State} (h0 : s.NoSpiFaultNow)
    (h : ∀ t, step s = .next t → t.SpiFaultFree) : s.SpiFaultFree := by
  refine spiFaultFree_iff.mpr fun n => ?_
  cases n with
  | zero => exact spiFaultFreeFor_zero s
  | succ n => exact spiFaultFreeFor_succ h0 fun t ht => (h t ht).for n

/-- A run in its first step and after it. -/
theorem pulseFaultFree_step {s : State} (h0 : s.NoPulseFaultNow)
    (h : ∀ t, step s = .next t → t.PulseFaultFree) : s.PulseFaultFree := by
  refine pulseFaultFree_iff.mpr fun n => ?_
  cases n with
  | zero => exact pulseFaultFreeFor_zero s
  | succ n => exact pulseFaultFreeFor_succ h0 fun t ht => (h t ht).for n

/-- A final state reaches itself alone. -/
theorem reaches_of_final {s t : State} (hm : s.mover = none) (h : Reaches s t) : t = s := by
  rcases Relation.ReflTransGen.cases_head h with h | ⟨r, hr, -⟩
  · exact h.symm
  · have : step s = .next r := hr
    simp [step, State.move, hm] at this

/-- A final state meets both premises. -/
theorem faultFree_of_final {s : State} (hm : s.mover = none) :
    s.SpiFaultFree ∧ s.PulseFaultFree :=
  ⟨fun t ht hmv => (by rw [reaches_of_final hm ht, hm] at hmv; cases hmv),
    fun t ht hmv => (by rw [reaches_of_final hm ht, hm] at hmv; cases hmv)⟩

/-- An agent's step takes no draw; the machine takes the next one after it. -/
theorem agentStep_choices {s t : State} {a : Agent} (h : s.agentStep a = .next t) :
    t.choices = s.choices := by
  have hexec : ∀ {i : Instr}, exec i s = .next t → t.choices = s.choices := by
    intro i hi
    rcases exec_next hi with ⟨_, _, rfl⟩ | ⟨_, m, _, rfl⟩
    · simp [State.raise]
    · unfold itemStep
      cases m <;> simp [Micro.wait, perform, State.startSleep, State.startTick]
  cases a with
  | unit u =>
    rcases unitStep_next h with ⟨i, _, hi⟩ | ⟨op, _, _, rfl⟩ | ⟨op, _, _, rfl⟩
    · exact hexec hi
    · simp [State.raise]
    · simp [State.refuse]
  | spi =>
    simp only [State.agentStep, Host.Outcome.next.injEq] at h
    subst h
    rcases spiStep_cases s with ⟨_, e⟩ | ⟨_, b, rest, _, e⟩ | ⟨_, _, e⟩ <;> rw [e]
    · rw [State.spiFail, deliverFault_eq]
      split <;> simp [State.raise, State.faultPath]
    · simp [State.spiTransmit, State.emit]
    · rw [spiComplete_eq]
  | pulse =>
    simp only [State.agentStep, Host.Outcome.next.injEq] at h
    subst h
    rw [pulseStep_wakes]
  | timer u =>
    simp only [State.agentStep, Host.Outcome.next.injEq] at h
    subst h
    unfold State.timerStep
    split <;> simp [State.wake]

/-- Where draws are given, the next step leaves the first of them as the draw and the others given. -/
theorem step_takes_draw {s t : State} {c : Draw} {rest : List Draw} (h : step s = .next t)
    (hc : s.choices = c :: rest) : t.draw = c ∧ t.choices = rest := by
  obtain ⟨a, r, _, hr, rfl⟩ := step_cases h
  rw [nextDraw_of_cons r c rest ((agentStep_choices hr).trans hc)]
  exact ⟨rfl, rfl⟩

/-- Draws that are given and hold no SPI fault meet the premise for as many steps. -/
theorem spiFaultFreeFor_of_draws {n : Nat} {s : State} (hn : n ≤ s.choices.length + 1)
    (hd : s.draw.spiFault = false) (hc : ∀ c ∈ s.choices, c.spiFault = false) :
    s.SpiFaultFreeFor n := by
  induction n generalizing s with
  | zero => exact spiFaultFreeFor_zero s
  | succ n ih =>
    refine spiFaultFreeFor_succ (fun _ => hd) fun t ht => ?_
    cases hch : s.choices with
    | nil =>
      have : n = 0 := by simp [hch] at hn; omega
      exact this ▸ spiFaultFreeFor_zero t
    | cons c rest =>
      obtain ⟨h1, h2⟩ := step_takes_draw ht hch
      rw [hch] at hn hc
      refine ih (by simpa [h2] using hn) ?_ ?_
      · rw [h1]; exact hc c (by simp)
      · rw [h2]; exact fun x hx => hc x (by simp [hx])

/-- Draws that are given and hold no pulse fault meet the premise for as many steps. -/
theorem pulseFaultFreeFor_of_draws {n : Nat} {s : State} (hn : n ≤ s.choices.length + 1)
    (hd : s.draw.pulseFault = false) (hc : ∀ c ∈ s.choices, c.pulseFault = false) :
    s.PulseFaultFreeFor n := by
  induction n generalizing s with
  | zero => exact pulseFaultFreeFor_zero s
  | succ n ih =>
    refine pulseFaultFreeFor_succ (fun _ => by simp [frameResult, hd]) fun t ht => ?_
    cases hch : s.choices with
    | nil =>
      have : n = 0 := by simp [hch] at hn; omega
      exact this ▸ pulseFaultFreeFor_zero t
    | cons c rest =>
      obtain ⟨h1, h2⟩ := step_takes_draw ht hch
      rw [hch] at hn hc
      refine ih (by simpa [h2] using hn) ?_ ?_
      · rw [h1]; exact hc c (by simp)
      · rw [h2]; exact fun x hx => hc x (by simp [hx])

/-! ## Which agent moves -/

/-- Where the other unit is quiet and one agent of this unit alone has an enabled step, it moves. -/
theorem only_mover {s : State} {u : UnitId} {a : Agent} (hq : s.Quiet (otherUnit u))
    (ha : a.owner = u) (he : s.enabled a = true)
    (huniq : ∀ b : Agent, b.owner = u → s.enabled b = true → b = a) : s.mover = some a := by
  apply mover_of_only
  intro b
  refine ⟨fun hb => ?_, fun h => h ▸ he⟩
  by_cases hbo : b.owner = u
  · exact huniq b hbo hb
  · exfalso
    have : b.owner = otherUnit u := by
      revert hbo; cases b.owner <;> cases u <;> simp [otherUnit]
    obtain ⟨q1, q2, q3, q4⟩ := hq
    rw [← this] at q1 q2 q3 q4
    cases b with
    | unit v => simp [State.enabled, Agent.owner] at hb q1; exact q1 hb
    | spi => simp [State.enabled, Agent.owner] at hb q3; simp [q3] at hb
    | pulse => simp [State.enabled, Agent.owner] at hb q4; simp [q4] at hb
    | timer v => simp [State.enabled, Agent.owner] at hb q2; simp [q2] at hb

/-- A unit that does not wait for the timer has no pending wait (R38). -/
theorem pending_of_running {s : State} {u : UnitId} (h : UnitInv s u)
    (hr : (s.seq u).run = .running) : (s.seq u).pending = none := by
  cases hp : (s.seq u).pending with
  | none => rfl
  | some p =>
    cases p with
    | sleep ms =>
      have := h.sleepWait.mpr ⟨ms, hp⟩
      rw [hr] at this; cases this
    | tick =>
      have := h.tickWait.mpr hp
      rw [hr] at this; cases this

/-- A unit that has not halted is not refused (R257). -/
theorem refused_of_not_halted {s : State} {u : UnitId} (h : UnitInv s u)
    (hr : (s.seq u).run ≠ .halted) : (s.seq u).refused = false := by
  by_contra hh
  exact hr (h.refusedHalted (by simpa using hh))

/-- The SPI channel is busy only while unit D waits for it (R36). -/
theorem spi_idle_of_not_waiting {s : State} (h : UnitInv s .d) (hr : s.d.run ≠ .waiting .spiDone) :
    s.spi.busy = false := by
  by_contra hh
  exact hr (h.spiWait.mpr ⟨rfl, by simpa using hh⟩)

/-- The pulse channel is busy only while unit L waits for it (R36). -/
theorem pulse_idle_of_not_waiting {s : State} (h : UnitInv s .l)
    (hr : s.l.run ≠ .waiting .frameDone) : s.pulse.busy = false := by
  by_contra hh
  exact hr (h.frameWait.mpr ⟨rfl, by simpa using hh⟩)

end Sys2Proof.Machine
end

