-- ==== Sys2Proof/Tests/Slice0.lean ====
section
/-! SUPPORT. The model's own tests. The expected values of `test_…` are those of
spec/95_test_vectors.md and of the rules' own examples, at the place each comment names. A
`witness_<Name>` shows a state and operands that meet the hypotheses of `Obligations.<Name>`, for each
of its clauses. -/

namespace Sys2Proof.Tests

open Sys2Proof.Machine

/-! ## Small states -/

/-- A configuration with a value for every parameter (the preamble of 95_test_vectors.md). -/
def cfg : Config where
  nPixels := 8
  initResetMode := .pulse
  tRstLowMs := 10
  tSettleMs := 200
  onTransmitFault := .halts
  pulseFaults := true
  wheelBrightness := 0x3F000000
  tChaseMs := 100
  pwrReset := true
  spiBitOrder := .msbFirst
  spiMode := ⟨false, false⟩
  spiClockHz := 1000000
  pixelWireOrder := .grb
  pulseBitOrder := .msbFirst
  pulseTiming := Config.ws2812Timing
  clockWidth := 64

/-- A draw without faults in which the agent `a` moves. -/
def calm (a : Agent) : Draw := ⟨a, false, false, false, false⟩

/-- The reset state with the operation `o` as the whole program of unit `u`, which moves next. -/
def atOp (u : UnitId) (o : Op) : State :=
  { State.loadOp u o (State.atReset cfg Program.empty Program.empty false) with
    draw := calm (.unit u) }

/-- The same with an operation by its name. -/
def atInstr (u : UnitId) (i : Instr) : State := atOp u (encode i)

/-- The display brought up (R154). -/
def ready (s : State) : State :=
  { s with drv := .ready, lines := ⟨true, true, true, s.lines.pwr⟩ }

/-- CS asserted (R112). -/
def csLow (s : State) : State := { s with lines := { s.lines with cs := false } }

/-- Unit D inside its operation, waiting for the SPI channel, with the bytes `q` to send. -/
def sending (mu : Nat) (q : List Byte) (sent : Nat) (s : State) : State :=
  { s with
    d := { s.d with mu := mu, run := .waiting .spiDone }
    spi := ⟨true, q, sent⟩
    draw := calm .spi }

/-- Unit L waiting for its frame. -/
def emitting (s : State) : State :=
  { s with
    l := { s.l with run := .waiting .frameDone }
    pulse := ⟨true, s.led.fb⟩
    draw := calm .pulse }

/-- Unit `u` waiting for the timer. -/
def pending (u : UnitId) (w : Wait) (p : Pending) (s : State) : State :=
  { s.mapSeq u fun q => { q with run := .waiting w, pending := some p } with
    draw := calm (.timer u) }

/-- The same with the SPI channel's fault drawn, and the level `v` of CS after it. -/
def failing (v : Level) (s : State) : State :=
  { s with draw := { s.draw with spiFault := true, csLevel := v } }

/-- The next `n` draws given, all without faults. -/
def given (n : Nat) (s : State) : State :=
  { s with choices := List.replicate n (calm (.unit .d)) }

/-- Whether the next step answers a state with the property `p`. -/
def after (s : State) (p : State → Bool) : Bool :=
  match step s with
  | .next t => p t
  | .fault _ => false
  | .refused _ => false

/-- The state after the next step. -/
def nextOf (s : State) : State :=
  match step s with
  | .next t => t
  | .fault _ => s
  | .refused _ => s

/-- Unit `u` has halted with this fault. -/
def haltedWith (u : UnitId) (code : FaultCode) (info : FaultInfo) (t : State) : Bool :=
  (t.seq u).run == .halted && (t.seq u).fault == some ⟨code, u, 0, 0, info⟩

/-- Unit D at the one operation of its body. -/
def looping : State :=
  { State.atReset cfg ⟨[], [encode (.lineSet .cs false)]⟩ Program.empty false with
    draw := calm (.unit .d) }

/-! ## Well-formedness (R61, R80) -/

/-- A payload of 65536 bytes has no operation word. -/
theorem test_wf_spi_write_too_long :
    (Instr.spiWrite (List.replicate 65536 0)).wf = false := by
  simp only [Instr.wf, Instr.payload, List.length_replicate]; rfl

theorem test_wf_disp_cmd_too_long :
    (Instr.dispCmd 0x2A (List.replicate 65536 0)).wf = false := by
  simp only [Instr.wf, Instr.payload, List.length_replicate]; rfl

theorem test_wf_disp_data_too_long :
    (Instr.dispData (List.replicate 65536 0)).wf = false := by
  simp only [Instr.wf, Instr.payload, List.length_replicate]; rfl

theorem test_wf_longest : (Instr.spiWrite (List.replicate 65535 0)).wf = true := by
  simp only [Instr.wf, Instr.payload, List.length_replicate]; rfl

/-! ## Decoding: words written out bit by bit from R84 (OPC, A, IMM), and section 2.1 -/

theorem test_decode_lineSet :
    decode 0b00000001_00000011_0000000000000001 [] .d = .ok (.lineSet .pwr true) := by decide
theorem test_decode_spiWrite :
    decode 0b00000010_00000000_0000000000000010 [0x2A, 0x00] .d
      = .ok (.spiWrite [0x2A, 0x00]) := by decide
theorem test_decode_dispInit :
    decode 0b00000011_00000000_0000000000000000 [] .d = .ok .dispInit := by decide
theorem test_decode_dispCmd :
    decode 0b00000100_11111111_0000000000000000 [] .d = .ok (.dispCmd 0xFF []) := by decide
theorem test_decode_dispData :
    decode 0b00000101_00000000_0000000000000010 [0xF8, 0x00] .d
      = .ok (.dispData [0xF8, 0x00]) := by decide
theorem test_decode_pulseWrite :
    decode 0b00000110_00000000_0000000000001000 [] .l = .ok (.pulseWrite 8) := by decide
theorem test_decode_sleep :
    decode 0b00000111_00000000_1111111111111111 [] .l = .ok (.sleep 65535) := by decide
theorem test_decode_tickerSet :
    decode 0b00001000_00000000_0000000001100100 [] .d = .ok (.tickerSet 100) := by decide
theorem test_decode_tickerNext :
    decode 0b00001001_00000000_0000000000000000 [] .l = .ok .tickerNext := by decide
theorem test_decode_chaseStep :
    decode 0b00001010_00000000_0000000000000000 [] .l = .ok .chaseStep := by decide
theorem test_decode_wheelStep :
    decode 0b00001011_00000000_0000000000000000 [] .l = .ok .wheelStep := by decide

/-- The illegal words of section 2.1 and of section 2.8, each by the check that catches it. -/
theorem test_decode_illegal :
    decode 0x01040001 [] .d = .illegalOp ∧ decode 0x01000002 [] .d = .illegalOp ∧
    decode 0x01000000 [] .l = .illegalOp ∧ decode 0x02010000 [] .d = .illegalOp ∧
    decode 0x03000001 [] .d = .illegalOp ∧ decode 0x06000008 [] .d = .illegalOp ∧
    decode 0x09000001 [] .l = .illegalOp ∧ decode 0x0A000000 [] .d = .illegalOp ∧
    decode 0x00000000 [] .d = .illegalOp ∧ decode 0x0C000000 [] .d = .illegalOp ∧
    decode 0xFF000000 [] .l = .illegalOp ∧ decode 0x0C000000 [0x01] .d = .illegalOp ∧
    decode 0x042A0001 [0x00] .l = .illegalOp ∧ decode 0x02010001 [0x01] .d = .illegalOp := by
  decide

/-- The payload refusals of sections 2.1 and 2.8. -/
theorem test_decode_payload_length :
    decode 0x01000000 [0x00] .d = .payloadLength ∧ decode 0x02000002 [0x2A] .d = .payloadLength ∧
    decode 0x042A0002 [0x00] .d = .payloadLength := by decide

/-- The operation of every row of the table, by the host's numbering of its bits, runs. -/
theorem test_table_words :
    [0x01000000, 0x02000000, 0x03000000, 0x04000000, 0x05000000, 0x06000000, 0x07000000, 0x08000000,
      0x09000000, 0x0A000000, 0x0B000000].all (fun w =>
        (decodeTableWord 32 w).isSome && after (State.reset.withFetchWord 32 w) fun _ => true)
      = true := by decide

/-! ## Fetch, checks and refusals (R28, R81, R255, R257) -/

/-- A program of zero words faults at its first operation (R85). -/
theorem test_zero_word_halts :
    after (atOp .d ⟨0, []⟩) (haltedWith .d .illegalOp (.word 0)) = true := by decide

/-- A payload of the wrong length is refused, with no fault recorded (R81). -/
theorem test_payload_refused :
    after (atOp .d ⟨0x02000002, [0x2A]⟩)
      (fun t => t.d.refused && t.d.run == .halted && t.d.fault == none) = true := by decide

/-- R257, section 2.8: launches that are refused, each for one reason; and one that is not. -/
theorem test_launch_configurations :
    configOk cfg = true ∧ configOk { cfg with nPixels := 0 } = false ∧
    configOk { cfg with nPixels := 65535 } = true ∧
    configOk { cfg with nPixels := 65536 } = false ∧
    configOk { cfg with wheelBrightness := 0x7FC00000 } = false ∧
    configOk { cfg with wheelBrightness := 0x7F800000 } = true ∧
    configOk { cfg with tSettleMs := 199 } = false ∧ configOk { cfg with tSettleMs := 100 } = false ∧
    configOk { cfg with tChaseMs := 0 } = false := by decide

/-! ## One step of each operation (sections 2.2 to 2.7) -/

/-- 2.2: CS = 1, `LINE.SET CS, 0`. -/
theorem test_lineSet :
    after (atInstr .d (.lineSet .cs false)) (fun t => t.lines == ⟨false, false, false, true⟩
      && t.d.trace == [.line .cs false] && t.d.st == .ok) = true := by decide

/-- 2.2: a write of the same level is still recorded. -/
theorem test_lineSet_same_level :
    after (csLow (atInstr .d (.lineSet .cs false)))
      (fun t => t.lines.cs == false && t.d.trace == [.line .cs false]) = true := by decide

/-- 2.3: CS = 1, `SPI.WRITE [0x11]`. -/
theorem test_spiWrite_frame_violation :
    after (atInstr .d (.spiWrite [0x11])) (fun t => haltedWith .d .frameViolation (.level true) t
      && t.d.trace == [] && t.spi.busy == false) = true := by decide

/-- 2.3: the second byte of `SPI.WRITE [0x2A, 0x00]` with CS = 0, DC = 0. -/
theorem test_spi_channel_byte :
    after (sending 0 [0x00] 1 (csLow (atInstr .d (.spiWrite [0x2A, 0x00]))))
      (fun t => t.d.trace == [.byte 0x00 false false] && t.spi == ⟨true, [], 2⟩) = true := by decide

/-- 2.3: `SPI.WRITE [1, 2, 3]`, a fault after 1 byte: CS unchanged, `tf_since_init` unchanged. -/
theorem test_spi_channel_fault :
    after (failing true (sending 0 [2, 3] 1 (csLow (atInstr .d (.spiWrite [1, 2, 3])))))
      (fun t => haltedWith .d .transmitFault (.transfer 0 1) t && t.lines.cs == false
        && t.d.trace == [.spiEnd 1 .transmitFault] && t.tfSinceInit == false) = true := by decide

/-- 2.3: Continue, `SPI.WRITE [1]`, a fault before any byte. -/
theorem test_spi_channel_fault_continue :
    after { failing true (sending 0 [1] 0 (csLow (atInstr .d (.spiWrite [1])))) with
        cfg := { cfg with onTransmitFault := .continues } }
      (fun t => t.d.run == .done && t.d.st == .transmitFault
        && t.d.fault == some ⟨.transmitFault, .d, 0, 0, .transfer 0 0⟩) = true := by decide

/-- 2.4: `DISP.INIT` at reset is legal, and its first item sets Initializing (R141). -/
theorem test_dispInit_starts :
    after (atInstr .d .dispInit) (fun t => t.drv == .initializing && t.d.mu == 1
      && t.d.trace == []) = true := by decide

/-- 2.4: `DISP.INIT` when Ready with no fault since. -/
theorem test_dispInit_protocol :
    after (ready (atInstr .d .dispInit)) (haltedWith .d .protocol (.driver .ready)) = true := by decide

/-- R141: item 3 of `DISP.INIT` releases RST, and item 11 ends it. -/
theorem test_items_of_dispInit :
    (itemsOf cfg .dispInit)[3]? = some (.line .rst true) ∧
    (itemsOf cfg .dispInit)[4]? = some (.sleep 200) ∧
    (itemsOf cfg .dispInit)[7]? = some (.spi [0x11]) ∧
    (itemsOf cfg .dispInit)[11]? = some .drvReady ∧ (itemsOf cfg .dispInit).length = 12 := by decide

/-- 2.4: `DISP.CMD 0x2A, [0]` at reset: no line written. -/
theorem test_dispCmd_protocol :
    after (atInstr .d (.dispCmd 0x2A [0])) (fun t =>
      haltedWith .d .protocol (.driver .uninitialized) t && t.d.trace == [] && t.lines.cs == true)
      = true := by decide

/-- 2.4: `DISP.CMD 0x2C, [1, 2]`, a fault on the payload write after 1 byte, `v = 1`. -/
theorem test_fault_path_of_dispCmd :
    after (failing true (sending 4 [2] 1 (csLow (ready (atInstr .d (.dispCmd 0x2C [1, 2]))))))
      (fun t => t.d.fault == some ⟨.transmitFault, .d, 0, 4, .transfer 4 1⟩ && t.d.run == .halted
        && t.d.trace == [.spiEnd 1 .transmitFault, .line .cs true] && t.lines.dc == true
        && t.lines.cs == true && t.tfSinceInit == true && t.drv == .ready) = true := by decide

/-- 2.4: `DISP.DATA` in Ready writes DC before CS. -/
theorem test_dispData :
    after (ready (atInstr .d (.dispData [0xF8, 0x00]))) (fun t => t.d.trace == [.line .dc true]
      && t.d.mu == 1 && t.lines.cs == true) = true := by decide

/-- 2.4: `DISP.DATA [0]` at reset. -/
theorem test_dispData_protocol :
    after (atInstr .d (.dispData [0])) (haltedWith .d .protocol (.driver .uninitialized))
      = true := by decide

/-- 2.5: N = 8, `PULSE.WRITE 7`. -/
theorem test_pulseWrite_param :
    after (atInstr .l (.pulseWrite 7)) (haltedWith .l .param (.value 7)) = true := by decide

/-- 2.5: a PulseFault with the frame not emitted: `pulse_fault` is set, and unit L goes on. -/
theorem test_pulse_channel_fault :
    after { emitting (atInstr .l (.pulseWrite 8)) with draw := ⟨.pulse, false, false, true, false⟩ }
      (fun t => t.l.trace == [.frameEnd .pulseFault] && t.led.pulseFault && t.l.run == .done
        && t.l.st == .ok && t.l.fault == none) = true := by decide

/-- 2.7: `SLEEP 0` is a suspension point all the same. -/
theorem test_sleep_zero :
    after (atInstr .d (.sleep 0)) (fun t => t.d.run == .waiting .sleepDone
      && t.d.pending == some (.sleep 0) && t.d.trace == []) = true := by decide

/-- 2.7: the end of `SLEEP 200`. -/
theorem test_timer_ends_sleep :
    after (pending .l .sleepDone (.sleep 200) (atInstr .l (.sleep 200))) (fun t =>
      t.l.trace == [.sleep 200] && t.l.run == .done && t.l.pending == none) = true := by decide

/-- 2.7: `TICKER.SET 100` on a ticker armed with k = 5 restarts it. -/
theorem test_tickerSet_restarts :
    after ((atInstr .d (.tickerSet 100)).mapSeq .d fun q => { q with ticker := ⟨true, 10, 5⟩ })
      (fun t => t.d.ticker == ⟨true, 100, 0⟩ && t.d.trace == []) = true := by decide

/-- 2.7: `TICKER.SET 0`. -/
theorem test_tickerSet_zero :
    after (atInstr .l (.tickerSet 0)) (haltedWith .l .param (.value 0)) = true := by decide

/-- 2.7: `TICKER.NEXT` on an unarmed ticker. -/
theorem test_tickerNext_unarmed :
    after (atInstr .d .tickerNext) (haltedWith .d .param (.value 0)) = true := by decide

/-- 2.7: the second `TICKER.NEXT` after `TICKER.SET 10` takes tick 2. -/
theorem test_timer_second_tick :
    after (pending .d .tickDone .tick
        ((atInstr .d .tickerNext).mapSeq .d fun q => { q with ticker := ⟨true, 10, 1⟩ }))
      (fun t => t.d.trace == [.tick 2] && t.d.ticker == ⟨true, 10, 2⟩) = true := by decide

/-- 2.6.4, t = 9: from the state after tick 8. -/
theorem test_chaseStep :
    after { atInstr .l .chaseStep with
        led := ⟨[⟨0, 0, 0⟩, ⟨1, 0, 0⟩, ⟨3, 0, 0⟩, ⟨6, 1, 0⟩, ⟨12, 3, 0⟩, ⟨22, 9, 0⟩, ⟨42, 21, 0⟩,
          ⟨79, 48, 0⟩], 32, 0, 0, false⟩ }
      (fun t => t.led == ⟨[⟨73, 54, 0⟩, ⟨0, 0, 0⟩, ⟨1, 0, 0⟩, ⟨3, 0, 0⟩, ⟨6, 1, 0⟩, ⟨11, 4, 0⟩,
        ⟨21, 10, 0⟩, ⟨39, 24, 0⟩], 36, 1, 0, false⟩) = true := by decide

/-- 2.6.4, t = 64: the phase counter and the head index wrap. -/
theorem test_chaseStep_wraps :
    after { atInstr .l .chaseStep with
        led := ⟨[⟨1, 0, 0⟩, ⟨2, 0, 1⟩, ⟨6, 0, 1⟩, ⟨13, 0, 2⟩, ⟨27, 0, 4⟩, ⟨58, 0, 5⟩, ⟨123, 0, 4⟩,
          ⟨0, 0, 0⟩], 252, 7, 0, false⟩ }
      (fun t => t.led == ⟨[⟨0, 0, 0⟩, ⟨1, 0, 0⟩, ⟨3, 0, 0⟩, ⟨6, 0, 1⟩, ⟨13, 0, 2⟩, ⟨29, 0, 2⟩,
        ⟨61, 0, 2⟩, ⟨127, 0, 0⟩], 0, 0, 0, false⟩) = true := by decide

/-- 2.6.6: N = 8, brightness 1.0, j = 0. -/
theorem test_wheelStep :
    after { atInstr .l .wheelStep with cfg := { cfg with wheelBrightness := 0x3F800000 } }
      (fun t => t.led == ⟨[⟨255, 0, 0⟩, ⟨159, 96, 0⟩, ⟨63, 192, 0⟩, ⟨0, 222, 33⟩, ⟨0, 126, 129⟩,
        ⟨0, 30, 225⟩, ⟨66, 0, 189⟩, ⟨162, 0, 93⟩], 0, 0, 1, false⟩) = true := by decide

/-- 2.6.6: N = 1, brightness 0.5, j = 1279: the counter resets. -/
theorem test_wheelStep_resets :
    after { atInstr .l .wheelStep with
        cfg := { cfg with nPixels := 1 }, led := ⟨[⟨0, 0, 0⟩], 0, 0, 1279, false⟩ }
      (fun t => t.led == ⟨[⟨127, 0, 0⟩], 0, 0, 0, false⟩) = true := by decide

/-! ## Checkpoints (R44) -/

/-- A unit whose program is empty is at checkpoint 0 at launch (R29, R44). -/
theorem test_checkpoint_of_empty_program :
    Checkpoint (State.atReset cfg Program.empty Program.empty false) .l 0
      (State.atReset cfg Program.empty Program.empty false) := by
  unfold Checkpoint
  rw [if_pos (by decide)]
  exact ⟨rfl, rfl, .inl rfl⟩

/-- A unit whose body is empty is at checkpoint 0 where it becomes Done (R44). -/
theorem test_checkpoint_of_empty_body :
    Checkpoint (atInstr .d (.lineSet .cs false)) .d 0 (nextOf (atInstr .d (.lineSet .cs false))) := by
  unfold Checkpoint
  rw [if_pos (by decide)]
  exact ⟨rfl, rfl, .inr ⟨_, .refl, rfl, by decide⟩⟩

/-- The first time the body's last operation completes is checkpoint 1 (R44). -/
theorem test_checkpoint_of_body :
    Checkpoint looping .d 1 (nextOf looping) := by
  unfold Checkpoint
  rw [if_neg (by decide)]
  exact ⟨_, .refl, rfl, rfl, rfl⟩

/-! ## Colour arithmetic and wires (sections 2.5, 2.6) -/

/-- 2.6.2: rows of `scale`: 1.5, 0.1, 0.3, 0.75, 0.999 and 0.01 in binary32. -/
theorem test_scale :
    scale ⟨255, 128, 1⟩ 0x3FC00000 = ⟨255, 128, 1⟩ ∧ scale ⟨255, 128, 1⟩ 0xBF000000 = ⟨0, 0, 0⟩ ∧
    scale ⟨10, 20, 30⟩ 0x3DCCCCCD = ⟨1, 2, 3⟩ ∧ scale ⟨255, 100, 3⟩ 0x3E99999A = ⟨76, 30, 0⟩ ∧
    scale ⟨200, 201, 3⟩ 0x3F400000 = ⟨150, 150, 2⟩ ∧ scale ⟨255, 0, 0⟩ 0x3F7FBE77 = ⟨254, 0, 0⟩ ∧
    scale ⟨200, 0, 0⟩ 0x3C23D70A = ⟨2, 0, 0⟩ ∧ scale ⟨255, 0, 0⟩ 0x3C23D70A = ⟨2, 0, 0⟩ := by decide

/-- 2.6.1: the wheel at its band edges. -/
theorem test_wheel :
    wheel 84 = ⟨3, 252, 0⟩ ∧ wheel 85 = ⟨0, 255, 0⟩ ∧ wheel 86 = ⟨0, 252, 3⟩ ∧
    wheel 169 = ⟨0, 3, 252⟩ ∧ wheel 170 = ⟨0, 0, 255⟩ ∧ wheel 171 = ⟨3, 0, 252⟩ := by decide

/-- 2.6.3: `wrap`. -/
theorem test_wrap :
    wrap 0 (-1) 8 = 7 ∧ wrap 0 (-8) 8 = 0 ∧ wrap 0 (-9) 8 = 7 ∧ wrap 7 1 8 = 0 ∧ wrap 5 17 8 = 6 ∧
    wrap 2 (-19) 8 = 7 ∧ wrap 7 (-7) 8 = 0 ∧ wrap 0 (-3) 1 = 0 := by decide

/-- 2.5: the wire bits of the pixel (0x12, 0x34, 0x56). -/
theorem test_wire_bits :
    pixelBits cfg ⟨0x12, 0x34, 0x56⟩ =
      [false, false, true, true, false, true, false, false,
        false, false, false, true, false, false, true, false,
        false, true, false, true, false, true, true, false] := by decide

/-! ## Witnesses: more small states -/

/-- What a state has to meet for a unit to start an operation alone. -/
theorem startsAlone {s : State} {u : UnitId} {i : Instr}
    (h : s.current u = some i ∧ (s.seq u).mu = 0 ∧ (s.seq u).run = .running ∧
      (s.seq u).pending = none ∧ s.spi.busy = false ∧ s.pulse.busy = false ∧
      (s.seq (otherUnit u)).run ≠ .running ∧ (s.seq (otherUnit u)).pending = none) :
    s.StartsAlone u i :=
  ⟨h.1, h.2.1, h.2.2.1, h.2.2.2.1, h.2.2.2.2.1, h.2.2.2.2.2.1,
    h.2.2.2.2.2.2.1, h.2.2.2.2.2.2.2, fun _ => h.2.2.2.2.1, fun _ => h.2.2.2.2.2.1⟩

/-- The other reset mode (R141). -/
def preAsserted (s : State) : State :=
  { s with cfg := { s.cfg with initResetMode := .preAsserted } }

/-- Inside DISP_INIT at micro-operation `mu`, with these lines. -/
def initAt (mu : Nat) (lines : Lines) (s : State) : State :=
  { s with d := { s.d with mu := mu }, drv := .initializing, lines := lines }

/-- DISP_INIT waiting for the write of its opcode (item 7). -/
def initSending : State :=
  sending 7 [0x11] 0 (initAt 7 ⟨false, false, true, true⟩ (atInstr .d .dispInit))

/-- DISP_CMD waiting for the write of its payload (item 4), one byte sent. -/
def cmdSending : State :=
  sending 4 [2] 1 (csLow (ready (atInstr .d (.dispCmd 0x2C [1, 2]))))

/-- DISP_DATA waiting for the write of its payload (item 2), no byte left. -/
def dataSending : State :=
  sending 2 [] 1 (csLow (ready (atInstr .d (.dispData [9]))))

/-- SPI_WRITE waiting for its write, one byte of three sent. -/
def rawSending : State := sending 0 [2, 3] 1 (csLow (atInstr .d (.spiWrite [1, 2, 3])))

/-- SPI_WRITE at the end of its write, the next draw given: the step after it finds a final state. -/
def lastWrite : State := given 1 (sending 0 [] 1 (csLow (atInstr .d (.spiWrite [9]))))

/-- A pulse channel that never faults (PULSE_FAULTS, R7). -/
def faultless (s : State) : State := { s with cfg := { s.cfg with pulseFaults := false } }

/-- PULSE_WRITE at the end of its frame on such a channel, with a draw that asks for a fault. -/
def lastFrame : State :=
  { given 1 (faultless (emitting (atInstr .l (.pulseWrite 8)))) with
    draw := ⟨.pulse, false, false, true, true⟩ }

/-- Unit D at LINE_SET and unit L at SLEEP, unit `u` moving first, both draws without faults. -/
def both (u : UnitId) : State :=
  { State.loadOp .l (encode (.sleep 5)) (atInstr .d (.lineSet .pwr false)) with
    draw := calm (.unit u)
    choices := [calm (.unit .d), calm (.unit .l)] }

/-- Unit D halted with a fault, unit L at CHASE_STEP. -/
def haltedD : State :=
  { atInstr .l .chaseStep with
    d := { Seq.atReset Program.empty with
      run := .halted, fault := some ⟨.param, .d, 0, 0, .value 0⟩, refused := true } }

/-- What a host supplies: a value for every OPEN parameter (R284). -/
def supplied : Supplied where
  nPixels := some 8
  tRstLowMs := some 10
  wheelBrightness := some 0x3F000000
  tChaseMs := some 100
  pwrReset := some true
  spiMode := some ⟨false, false⟩
  spiClockHz := some 1000000
  pulseTiming := some Config.ws2812Timing
  clockWidth := some 64
  initResetMode := .pulse
  tSettleMs := 200
  onTransmitFault := .halts
  pulseFaults := true

/-! ## Witnesses: encoding and one step -/

theorem witness_DecodeOfEncode :
    ((Instr.spiWrite (List.replicate 65535 0)).wf = true ∧ Opcode.spiWrite.allows .d = true) ∧
    ((Instr.sleep 0xFFFF).wf = true ∧ Opcode.sleep.allows .l = true) :=
  ⟨⟨test_wf_longest, rfl⟩, by decide⟩

theorem witness_EncodeOfDecode :
    decode 0x02000000 [] .d = .ok (.spiWrite []) ∧
    decode 0x0400_0002 [1, 2] .d = .ok (.dispCmd 0 [1, 2]) := by decide

/-- The first word with an illegal code, and a word of a row that does not list the unit. -/
theorem witness_IllegalWordsHalt :
    ((atOp .d ⟨0x0C000000, []⟩).mover = some (.unit .d) ∧
      ((atOp .d ⟨0x0C000000, []⟩).seq .d).op? = some ⟨0x0C000000, []⟩ ∧
      (⟨0x0C000000, []⟩ : Op).decode .d = .illegalOp) ∧
    ((atOp .l ⟨0x01000000, []⟩).mover = some (.unit .l) ∧
      ((atOp .l ⟨0x01000000, []⟩).seq .l).op? = some ⟨0x01000000, []⟩ ∧
      (⟨0x01000000, []⟩ : Op).decode .l = .illegalOp) := by decide

theorem witness_PayloadLengthRefused :
    (atOp .d ⟨0x02000001, []⟩).mover = some (.unit .d) ∧
    ((atOp .d ⟨0x02000001, []⟩).seq .d).op? = some ⟨0x02000001, []⟩ ∧
    (⟨0x02000001, []⟩ : Op).decode .d = .payloadLength := by decide

theorem witness_StepRunsTheDecodedOperation :
    ((atInstr .d .dispInit).mover = some (.unit .d) ∧
      ((atInstr .d .dispInit).seq .d).op? = some (encode .dispInit) ∧
      (encode .dispInit).decode .d = .ok .dispInit) ∧
    cmdSending.mover = some .spi ∧ (emitting (atInstr .l (.pulseWrite 8))).mover = some .pulse ∧
    (pending .l .tickDone .tick (atInstr .l .tickerNext)).mover = some (.timer .l) ∧
    decodeTableWord 32 0x0B000000 = some .wheelStep := by decide

theorem witness_AnyEnabledAgentMayMove :
    (both .d).enabled (.unit .l) = true ∧ (both .d).mover = some (.unit .d) ∧
    (both .d).choices = calm (.unit .d) :: [calm (.unit .l)] := by decide

theorem witness_AdvanceFollowsTheProgram :
    (atInstr .d .dispInit).d.pc <
      (atInstr .d .dispInit).d.prog.prologue.length + (atInstr .d .dispInit).d.prog.body.length ∧
    Program.empty.prologue.length + Program.empty.body.length = 0 := by decide

theorem witness_ResetState : 7 < cfg.nPixels := by decide

theorem witness_Refusals :
    (step haltedD = .next (nextOf haltedD) ∧ (haltedD.seq .d).refused = true) ∧
    ((atOp .d ⟨0x01000000, [0]⟩).mover = some (.unit .d) ∧
      ((atOp .d ⟨0x01000000, [0]⟩).seq .d).op? = some ⟨0x01000000, [0]⟩ ∧
      (⟨0x01000000, [0]⟩ : Op).decode .d = .payloadLength) ∧
    (supplied.config = some cfg ∧ configOk cfg = true) ∧
    { supplied with pwrReset := none }.config = none ∧
    { supplied with tSettleMs := 199 }.config = some { cfg with tSettleMs := 199 } ∧
    configOk { cfg with tSettleMs := 199 } = false :=
  ⟨⟨rfl, rfl⟩, by decide, by decide, by decide, by decide, by decide⟩

/-! ## Witnesses: what each operation does -/

theorem witness_LineSetDrivesItsLine :
    (atInstr .d (.lineSet .rst true)).d.mu = 0 ∧ Line.pwr ≠ .rst := by decide

/-- One byte with CS asserted, and no byte with CS deasserted. -/
theorem witness_SpiWriteStarts :
    ((csLow (atInstr .d (.spiWrite [1]))).d.mu = 0 ∧
      (csLow (atInstr .d (.spiWrite [1]))).lines.cs = false) ∧
    ((atInstr .d (.spiWrite [])).d.mu = 0 ∧ (atInstr .d (.spiWrite [])).lines.cs = true ∧
      ¬ ([] : List Byte) ≠ []) := by decide

theorem witness_DisplayOperationsStart :
    ((atInstr .d .dispInit).d.mu = 0 ∧ (atInstr .d .dispInit).drv = .uninitialized) ∧
    ((ready (atInstr .d .dispInit)).drv = .ready ∧
      { ready (atInstr .d .dispInit) with tfSinceInit := true }.tfSinceInit = true) ∧
    ((ready (atInstr .d (.dispCmd 0 []))).d.mu = 0 ∧
      (ready (atInstr .d (.dispCmd 0 []))).drv = .ready) ∧
    ((ready (atInstr .d (.dispData []))).d.mu = 0 ∧
      (ready (atInstr .d (.dispData []))).drv = .ready) := by decide

/-- Each kind of item, in both reset modes, at the last places of the lists. -/
theorem witness_DisplayOperationsRunTheirLists :
    (0 < (initAt 11 ⟨true, true, true, true⟩ (atInstr .d .dispInit)).d.mu ∧
      (itemsOf cfg .dispInit)[11]? = some .drvReady) ∧
    (itemsOf cfg .dispInit)[1]? = some (.line .rst false) ∧
    (itemsOf cfg .dispInit)[2]? = some (.sleep 10) ∧
    (itemsOf cfg (.dispCmd 7 []))[4]? = some (.spi []) ∧
    (itemsOf cfg (.dispData [7]))[3]? = some (.line .cs true) ∧
    cfg.initResetMode = .pulse ∧
    (preAsserted (atInstr .d .dispInit)).cfg.initResetMode = .preAsserted := by decide

theorem witness_PulseWriteStarts :
    (atInstr .l (.pulseWrite 8)).l.mu = 0 ∧
    (8 : Half).toNat = (atInstr .l (.pulseWrite 8)).cfg.nPixels := by decide

theorem witness_TimerOperationsStart :
    ((atInstr .d (.sleep 0)).actor = .d ∧ ((atInstr .d (.sleep 0)).seq .d).mu = 0) ∧
    ((atInstr .l (.tickerSet 1)).actor = .l ∧ ((atInstr .l (.tickerSet 1)).seq .l).mu = 0 ∧
      1 ≤ (1 : Half).toNat ∧ 1 ≤ (0xFFFF : Half).toNat) ∧
    (((atInstr .l .tickerNext).mapSeq .l (Seq.armTicker 1)).actor = .l ∧
      (((atInstr .l .tickerNext).mapSeq .l (Seq.armTicker 1)).seq .l).mu = 0 ∧
      (((atInstr .l .tickerNext).mapSeq .l (Seq.armTicker 1)).seq .l).ticker.armed = true) := by
  decide

theorem witness_ChaseStepComputesItsFrame :
    (atInstr .l .chaseStep).l.mu = 0 ∧
    (atInstr .l .chaseStep).led.fb.length = (atInstr .l .chaseStep).cfg.nPixels ∧
    (atInstr .l .chaseStep).led.h < (atInstr .l .chaseStep).cfg.nPixels ∧ 7 < 8 ∧ 7 ≠ 0 := by
  decide

theorem witness_WheelStepComputesItsFrame :
    (atInstr .l .wheelStep).l.mu = 0 ∧ 7 < (atInstr .l .wheelStep).cfg.nPixels := by decide

theorem witness_ParameterChecksHalt :
    ((atInstr .l (.pulseWrite 9)).l.mu = 0 ∧
      (9 : Half).toNat ≠ (atInstr .l (.pulseWrite 9)).cfg.nPixels) ∧
    ((atInstr .d .tickerNext).actor = .d ∧ ((atInstr .d .tickerNext).seq .d).mu = 0 ∧
      ((atInstr .d .tickerNext).seq .d).ticker.armed = false) := by decide

theorem witness_RawWriteNeedsChipSelect :
    ((atInstr .d (.spiWrite [1])).d.mu = 0 ∧ ([1] : List Byte) ≠ [] ∧
      (atInstr .d (.spiWrite [1])).lines.cs ≠ Config.csActive) ∧
    (State.Inv (initAt 7 ⟨false, false, true, true⟩ (atInstr .d .dispInit)) ∧
      (initAt 7 ⟨false, false, true, true⟩ (atInstr .d .dispInit)).d.run = .running ∧
      (initAt 7 ⟨false, false, true, true⟩ (atInstr .d .dispInit)).current .d = some .dispInit ∧
      isComposite .dispInit = true ∧
      ((initAt 7 ⟨false, false, true, true⟩ (atInstr .d .dispInit)).items .d)[7]?
        = some (.spi [0x11])) :=
  ⟨by decide, inv_of_invCheck (by decide), by decide⟩

theorem witness_EmptyWriteIsPerformed :
    State.StartsAlone (given 1 (atInstr .d (.spiWrite []))) .d (.spiWrite []) ∧
    (given 1 (atInstr .d (.spiWrite []))).choices = calm (.unit .d) :: [] :=
  ⟨startsAlone (by decide), rfl⟩

/-- The three rows of the check of R142. -/
theorem witness_InitLegality :
    ((atInstr .d .dispInit).d.mu = 0 ∧ (atInstr .d .dispInit).drv = .uninitialized) ∧
    ({ ready (atInstr .d .dispInit) with tfSinceInit := true }.d.mu = 0 ∧
      { ready (atInstr .d .dispInit) with tfSinceInit := true }.drv = .ready) ∧
    ¬ ((ready (atInstr .d .dispInit)).drv = .uninitialized ∨
      (ready (atInstr .d .dispInit)).drv = .ready ∧
        (ready (atInstr .d .dispInit)).tfSinceInit = true) ∧
    (State.Inv (atInstr .d .dispInit) ∧ (atInstr .d .dispInit).d.run = .running ∧
      (atInstr .d .dispInit).d.mu = 0) :=
  ⟨by decide, by decide, by decide, inv_of_invCheck (by decide), by decide⟩

/-- Both levels of the check, for both operations, and the first and last items of DISP_INIT. -/
theorem witness_DisplayNeedsReady :
    ((atInstr .d (.dispCmd 0 [])).d.mu = 0 ∧ (atInstr .d (.dispCmd 0 [])).drv ≠ .ready) ∧
    ((ready (atInstr .d (.dispData []))).d.mu = 0 ∧
      (ready (atInstr .d (.dispData []))).drv = .ready) ∧
    ∀ k ∈ [1, 11], (initAt k ⟨true, true, true, true⟩ (atInstr .d .dispInit)).d.run = .running ∧
      0 < (initAt k ⟨true, true, true, true⟩ (atInstr .d .dispInit)).d.mu ∧
      (initAt k ⟨true, true, true, true⟩ (atInstr .d .dispInit)).d.mu <
        (itemsOf cfg .dispInit).length := by decide

/-! ## Witnesses: transfers, waits and faults -/

theorem witness_CompositeFaultPath :
    ((failing true initSending).mover = some .spi ∧
      (failing true initSending).draw.spiFault = true ∧
      (failing true initSending).current .d = some .dispInit ∧ isComposite .dispInit = true) ∧
    ((failing false cmdSending).mover = some .spi ∧
      (failing false cmdSending).draw.spiFault = true ∧
      (failing false cmdSending).current .d = some (.dispCmd 0x2C [1, 2])) ∧
    ((failing false dataSending).mover = some .spi ∧
      (failing false dataSending).draw.spiFault = true ∧
      (failing false dataSending).current .d = some (.dispData [9])) := by decide

theorem witness_RawWriteFault :
    ((failing true rawSending).mover = some .spi ∧ (failing true rawSending).draw.spiFault = true ∧
      (failing true rawSending).current .d = some (.spiWrite [1, 2, 3])) ∧
    (rawSending.Inv ∧ rawSending.spi.busy = true ∧
      rawSending.current .d = some (.spiWrite [1, 2, 3])) ∧
    (lastWrite.SpiFaultFree ∧ Reaches lastWrite (nextOf lastWrite)) := by
  refine ⟨by decide, ⟨inv_of_invCheck (by decide), by decide⟩,
    spiFaultFree_step (fun _ => rfl) fun t ht => ?_, .single rfl⟩
  cases ht
  exact (faultFree_of_final (by decide)).1

theorem witness_Reinitialization :
    (State.Inv (failing true initSending) ∧ (failing true initSending).mover = some .spi ∧
      (failing true initSending).draw.spiFault = true ∧
      (failing true initSending).current .d = some .dispInit ∧ isComposite .dispInit = true ∧
      step (failing true initSending) = .next (nextOf (failing true initSending))) ∧
    ((initAt 11 ⟨true, true, true, true⟩ (atInstr .d .dispInit)).d.run = .running ∧
      (initAt 11 ⟨true, true, true, true⟩ (atInstr .d .dispInit)).d.mu + 1 =
        (itemsOf cfg .dispInit).length ∧
      ∃ t, exec .dispInit (initAt 11 ⟨true, true, true, true⟩ (atInstr .d .dispInit)) = .next t) :=
  ⟨⟨inv_of_invCheck (by decide), by decide, by decide, by decide, by decide, rfl⟩,
    by decide, by decide, _, rfl⟩

theorem witness_FrameEnds :
    (emitting (atInstr .l (.pulseWrite 8))).mover = some .pulse ∧
    (emitting (atInstr .l (.pulseWrite 8))).current .l = some (.pulseWrite 8) ∧
    (emitting (atInstr .l (.pulseWrite 8))).l.mu = 0 := by decide

theorem witness_AgentsCompleteTheirWork :
    (rawSending.mover = some .spi ∧ rawSending.draw.spiFault = false ∧
      rawSending.spi.q = 2 :: [3]) ∧
    (dataSending.mover = some .spi ∧ dataSending.draw.spiFault = false ∧ dataSending.spi.q = []) ∧
    ((pending .d .sleepDone (.sleep 0) (atInstr .d (.sleep 0))).mover = some (.timer .d) ∧
      ((pending .d .sleepDone (.sleep 0) (atInstr .d (.sleep 0))).seq .d).pending
        = some (.sleep 0)) ∧
    ((pending .l .tickDone .tick (atInstr .l .tickerNext)).mover = some (.timer .l) ∧
      ((pending .l .tickDone .tick (atInstr .l .tickerNext)).seq .l).pending = some .tick) := by
  decide

/-! ## Witnesses: whole operations -/

theorem witness_SpiWriteCompletes :
    (State.StartsAlone (given 4 (csLow (atInstr .d (.spiWrite [1, 2, 3])))) .d
        (.spiWrite [1, 2, 3]) ∧
      (given 4 (csLow (atInstr .d (.spiWrite [1, 2, 3])))).lines.cs = Config.csActive ∧
      State.SpiFaultFreeFor (given 4 (csLow (atInstr .d (.spiWrite [1, 2, 3])))) 5) ∧
    (State.StartsAlone (given 1 (atInstr .d (.spiWrite []))) .d (.spiWrite []) ∧
      State.SpiFaultFreeFor (given 1 (atInstr .d (.spiWrite []))) 2) :=
  ⟨⟨startsAlone (by decide), by decide,
      spiFaultFreeFor_of_draws (by decide) (by decide) (by decide)⟩,
    startsAlone (by decide), spiFaultFreeFor_of_draws (by decide) (by decide) (by decide)⟩

theorem witness_DispCmdSendsACommandFrame :
    State.StartsAlone (given 10 (ready (atInstr .d (.dispCmd 0xA5 [1, 2])))) .d
      (.dispCmd 0xA5 [1, 2]) ∧
    (given 10 (ready (atInstr .d (.dispCmd 0xA5 [1, 2])))).drv = .ready ∧
    State.SpiFaultFreeFor (given 10 (ready (atInstr .d (.dispCmd 0xA5 [1, 2])))) 11 :=
  ⟨startsAlone (by decide), by decide, spiFaultFreeFor_of_draws (by decide) (by decide) (by decide)⟩

theorem witness_DispDataSendsADataFrame :
    State.StartsAlone (given 4 (ready (atInstr .d (.dispData [])))) .d (.dispData []) ∧
    (given 4 (ready (atInstr .d (.dispData [])))).drv = .ready ∧
    State.SpiFaultFreeFor (given 4 (ready (atInstr .d (.dispData [])))) 5 :=
  ⟨startsAlone (by decide), by decide, spiFaultFreeFor_of_draws (by decide) (by decide) (by decide)⟩

/-- Both reset modes, and both ways to be legal. -/
theorem witness_DispInitBringsUp :
    (State.StartsAlone (given 16 (atInstr .d .dispInit)) .d .dispInit ∧
      (given 16 (atInstr .d .dispInit)).drv = .uninitialized ∧
      (given 16 (atInstr .d .dispInit)).cfg.initResetMode = .pulse ∧
      State.SpiFaultFreeFor (given 16 (atInstr .d .dispInit)) 17) ∧
    (State.StartsAlone { given 13 (preAsserted (ready (atInstr .d .dispInit))) with
        tfSinceInit := true } .d .dispInit ∧
      (given 13 (preAsserted (ready (atInstr .d .dispInit)))).drv = .ready ∧
      (given 13 (preAsserted (ready (atInstr .d .dispInit)))).cfg.initResetMode ≠ .pulse ∧
      State.SpiFaultFreeFor { given 13 (preAsserted (ready (atInstr .d .dispInit))) with
        tfSinceInit := true } 14) :=
  ⟨⟨startsAlone (by decide), by decide, by decide,
      spiFaultFreeFor_of_draws (by decide) (by decide) (by decide)⟩,
    startsAlone (by decide), by decide, by decide,
    spiFaultFreeFor_of_draws (by decide) (by decide) (by decide)⟩

theorem witness_TimerWaitsComplete :
    State.StartsAlone (atInstr .d (.sleep 0)) .d (.sleep 0) ∧
    State.StartsAlone ((atInstr .l .tickerNext).mapSeq .l (Seq.armTicker 1)) .l .tickerNext ∧
    (((atInstr .l .tickerNext).mapSeq .l (Seq.armTicker 1)).seq .l).ticker.armed = true :=
  ⟨startsAlone (by decide), startsAlone (by decide), by decide⟩

/-- Draws without a fault; PULSE_FAULTS false with no draw given; a run to its end whose draw asks for
a fault that PULSE_FAULTS does not admit. -/
theorem witness_PulseWriteEmitsTheFrame :
    (State.StartsAlone (given 1 (atInstr .l (.pulseWrite 8))) .l (.pulseWrite 8) ∧
      (8 : Half).toNat = (given 1 (atInstr .l (.pulseWrite 8))).cfg.nPixels ∧
      State.PulseFaultFreeFor (given 1 (atInstr .l (.pulseWrite 8))) 2) ∧
    (State.StartsAlone (faultless (atInstr .l (.pulseWrite 8))) .l (.pulseWrite 8) ∧
      State.PulseFaultFreeFor (faultless (atInstr .l (.pulseWrite 8))) 2) ∧
    (State.PulseFaultFree lastFrame ∧ Reaches lastFrame (nextOf lastFrame)) := by
  refine ⟨⟨startsAlone (by decide), by decide,
    pulseFaultFreeFor_of_draws (by decide) (by decide) (by decide)⟩,
    ⟨startsAlone (by decide), pulseFaultFreeFor_succ (fun _ => rfl) fun t ht => ?_⟩,
    pulseFaultFree_step (fun _ => rfl) fun t ht => ?_, .single rfl⟩
  · cases ht
    exact pulseFaultFreeFor_succ (fun _ => rfl) fun _ _ => pulseFaultFreeFor_zero _
  · cases ht
    exact (faultFree_of_final (by decide)).2

theorem witness_DisplayOperationsFrame :
    (isComposite .dispInit = true ∧ ∃ t, exec .dispInit (atInstr .d .dispInit) = .next t) ∧
    (isComposite (.dispData [0]) = true ∧ Instr.dispData [0] ≠ .dispInit ∧
      ∃ t, exec (.dispData [0]) (atInstr .d (.dispData [0])) = .next t) :=
  ⟨⟨rfl, _, rfl⟩, rfl, by decide, _, rfl⟩

/-! ## Witnesses: colour and animation -/

/-- The positions where two bands meet. -/
theorem witness_WheelProperties :
    ((0 : Byte).toNat ≤ 85 ∧ (85 : Byte).toNat ≤ 85) ∧
    (85 ≤ (85 : Byte).toNat ∧ (170 : Byte).toNat ≤ 170) ∧
    (170 ≤ (170 : Byte).toNat ∧ 170 ≤ (255 : Byte).toNat) := by decide

/-- The first number above 1.0 and the last finite one; -0.0 and -infinity; a NaN. -/
theorem witness_ScaleCornerCases :
    ((0x3F800001 : Word).msb = false ∧ f32Exponent 0x3F800001 < 255 ∧
      (1 : ℚ) < ((f32Value 0x3F800001).mant : ℚ) * 2 ^ (f32Value 0x3F800001).exp) ∧
    ((0x7F7FFFFF : Word).msb = false ∧ f32Exponent 0x7F7FFFFF < 255) ∧
    ((0x80000000 : Word).msb = true ∧ f32IsNaN 0x80000000 = false) ∧
    ((0xFF800000 : Word).msb = true ∧ f32IsNaN 0xFF800000 = false) ∧
    f32IsNaN { cfg with wheelBrightness := 0x7F800001 }.wheelBrightness = true := by
  refine ⟨⟨by decide, by decide, ?_⟩, by decide, by decide, by decide, by decide⟩
  rw [show f32Value 0x3F800001 = ⟨8388609, -23⟩ by decide]
  norm_num

theorem witness_WrapProperties :
    1 ≤ 1 ∧ ((0 : Int) ≤ 7 ∧ (7 : Int) < (8 : Nat)) ∧ State.Inv (atInstr .l .chaseStep) :=
  ⟨le_rfl, by decide, inv_of_invCheck (by decide)⟩

theorem witness_ChaseDecay :
    (atInstr .l .chaseStep).l.mu = 0 ∧ (atInstr .l .chaseStep).led.fb.length = 8 ∧
    (atInstr .l .chaseStep).led.h < 8 ∧ 1 ≤ 7 ∧ 7 ≤ 8 - 1 := by decide

theorem witness_WheelFramesRepeat : (atInstr .l .wheelStep).l.mu = 0 ∧ 1 ≤ 1 := by decide

/-! ## Witnesses: every run -/

theorem witness_StepKeepsTheInvariant :
    State.Inv cmdSending ∧ step cmdSending = .next (nextOf cmdSending) :=
  ⟨inv_of_invCheck (by decide), rfl⟩

/-- A final state, and one that is not. -/
theorem witness_ProgressOrFinal :
    (State.Inv (State.atReset cfg Program.empty Program.empty false) ∧
      ∀ a ∈ agentCycle, (State.atReset cfg Program.empty Program.empty false).enabled a = false) ∧
    State.Inv (both .d) :=
  ⟨⟨inv_of_invCheck (by decide), by decide⟩, inv_of_invCheck (by decide)⟩

/-- A byte sent; and a fault that changes CS. -/
theorem witness_ChipSelectInvariant :
    (State.Inv cmdSending ∧ step cmdSending = .next (nextOf cmdSending) ∧
      cmdSending.spi.busy = true ∧ (nextOf cmdSending).spi.busy = true ∧
      Event.byte 2 false true ∈ (nextOf cmdSending).d.trace) ∧
    (State.Inv (failing true cmdSending) ∧
      step (failing true cmdSending) = .next (nextOf (failing true cmdSending)) ∧
      (failing true cmdSending).spi.busy = true ∧
      (nextOf (failing true cmdSending)).lines ≠ (failing true cmdSending).lines) :=
  ⟨⟨inv_of_invCheck (by decide), rfl, by decide, by decide, by decide⟩,
    inv_of_invCheck (by decide), rfl, by decide, by decide⟩

theorem witness_UnitsAreIsolated :
    ((both .d).mover = some (.unit .d) ∧ step (both .d) = .next (nextOf (both .d)) ∧
      (Agent.timer .l).owner ≠ (Agent.unit .d).owner) ∧
    ((both .l).mover = some (.unit .l) ∧ step (both .l) = .next (nextOf (both .l)) ∧
      Agent.spi.owner ≠ (Agent.unit .l).owner) :=
  ⟨⟨by decide, rfl, by decide⟩, by decide, rfl, by decide⟩

/-- Unit D's step alone, and unit D's step after one of unit L. -/
theorem witness_InterleavingDoesNotMatter :
    State.Inv (both .d) ∧ State.Inv (both .l) ∧ State.SameSide .d (both .d) (both .l) ∧
    UnitMoves .d [(false, false, false, false)] (both .d) (nextOf (both .d)) ∧
    UnitMoves .d [(false, false, false, false)] (both .l) (nextOf (nextOf (both .l))) := by
  refine ⟨inv_of_invCheck (by decide), inv_of_invCheck (by decide), rfl, ?_, ?_⟩
  · have h : (both .d).draw.outcomes = (false, false, false, false) := by decide
    rw [← h]
    exact .own (a := .unit .d) (by decide) rfl (show step _ = _ from rfl) (.refl _)
  · refine .other (a := .unit .l) (by decide) (by decide) (show step _ = _ from rfl) ?_
    have h : (nextOf (both .l)).draw.outcomes = (false, false, false, false) := by decide
    rw [← h]
    exact .own (a := .unit .d) (by decide) rfl (show step _ = _ from rfl) (.refl _)

/-- A unit that has an agent with a step, and one that has stopped. -/
theorem witness_OneAgentPerUnit :
    (State.Inv cmdSending ∧ cmdSending.d.run = .waiting .spiDone ∧
      cmdSending.enabled .spi = true) ∧
    (State.Inv haltedD ∧ (haltedD.seq .d).stopped) :=
  ⟨⟨inv_of_invCheck (by decide), by decide, by decide⟩, inv_of_invCheck (by decide), .inr rfl⟩

theorem witness_FaultStateIsSticky :
    (FaultCode.param ≠ .pulseFault) ∧
    ({ emitting (atInstr .l (.pulseWrite 8)) with draw := ⟨.pulse, false, false, true, false⟩ }.mover
        = some .pulse ∧ frameResult cfg ⟨.pulse, false, false, true, false⟩ = .pulseFault) ∧
    (step haltedD = .next (nextOf haltedD) ∧ (haltedD.seq .d).fault ≠ none ∧
      (haltedD.seq .d).refused = true) :=
  ⟨by decide, by decide, rfl, by decide, by decide⟩

/-- A unit that is Done and a unit that is Halted, each beside a unit that moves. -/
theorem witness_StoppedUnitsStay :
    (State.Inv haltedD ∧ step haltedD = .next (nextOf haltedD) ∧ (haltedD.seq .d).stopped) ∧
    (State.Inv cmdSending ∧ step cmdSending = .next (nextOf cmdSending) ∧
      (cmdSending.seq .l).stopped) :=
  ⟨⟨inv_of_invCheck (by decide), rfl, .inr rfl⟩, inv_of_invCheck (by decide), rfl, .inl rfl⟩

theorem witness_InputsNeverChange : step initSending = .next (nextOf initSending) := rfl

theorem witness_OnlyLineSetDrivesPwr :
    (step (both .d) = .next (nextOf (both .d)) ∧
      (nextOf (both .d)).lines.pwr ≠ (both .d).lines.pwr) ∧
    (isComposite .dispInit = true ∧ ∃ t, exec .dispInit (atInstr .d .dispInit) = .next t) :=
  ⟨⟨rfl, by decide⟩, rfl, _, rfl⟩

/-- The three ways `drv` moves; an operation boundary, and a stopped unit. -/
theorem witness_OnlyDispInitMovesTheDriver :
    (State.Inv (atInstr .d .dispInit) ∧
      step (atInstr .d .dispInit) = .next (nextOf (atInstr .d .dispInit)) ∧
      (nextOf (atInstr .d .dispInit)).drv ≠ (atInstr .d .dispInit).drv) ∧
    (State.Inv (initAt 11 ⟨true, true, true, true⟩ (atInstr .d .dispInit)) ∧
      (nextOf (initAt 11 ⟨true, true, true, true⟩ (atInstr .d .dispInit))).drv = .ready) ∧
    (State.Inv (failing true initSending) ∧
      (nextOf (failing true initSending)).drv = .uninitialized) ∧
    ((atInstr .d .dispInit).d.run = .running ∧ (atInstr .d .dispInit).d.mu = 0) ∧
    haltedD.d.stopped :=
  ⟨⟨inv_of_invCheck (by decide), rfl, by decide⟩, ⟨inv_of_invCheck (by decide), by decide⟩,
    ⟨inv_of_invCheck (by decide), by decide⟩, by decide, .inr rfl⟩

theorem witness_FrameBufferWriters :
    (State.Inv (atInstr .l .wheelStep) ∧
      step (atInstr .l .wheelStep) = .next (nextOf (atInstr .l .wheelStep)) ∧
      (nextOf (atInstr .l .wheelStep)).led.j ≠ (atInstr .l .wheelStep).led.j) ∧
    (State.Inv (emitting (atInstr .l (.pulseWrite 8))) ∧
      step (emitting (atInstr .l (.pulseWrite 8)))
        = .next (nextOf (emitting (atInstr .l (.pulseWrite 8)))) ∧
      (emitting (atInstr .l (.pulseWrite 8))).pulse.busy = true) :=
  ⟨⟨inv_of_invCheck (by decide), rfl, by decide⟩, inv_of_invCheck (by decide), rfl, by decide⟩

/-! A fair run: unit L sleeps 0 ms again and again, unit D has no program. -/

/-- The state before the `k`-th sleep of the run. -/
def sleeper (k : Nat) : State :=
  let s := State.atReset cfg Program.empty ⟨[], [encode (.sleep 0)]⟩ false
  { s with
    l := { s.l with trace := List.replicate k (.sleep 0), laps := k }
    draw := Config.freeDraw (2 * k)
    drawn := 2 * k + 1 }

/-- The state in the `k`-th sleep. -/
def asleep (k : Nat) : State :=
  { sleeper k with
    l := { (sleeper k).l with run := .waiting .sleepDone, pending := some (.sleep 0) }
    draw := Config.freeDraw (2 * k + 1)
    drawn := 2 * k + 2 }

/-- The run. -/
def sleepRun (n : Nat) : State := if n % 2 = 0 then sleeper (n / 2) else asleep (n / 2)

theorem sleeper_enabled (k : Nat) (a : Agent) :
    (sleeper k).enabled a = true ↔ a = .unit .l := by
  rcases a with (_ | _) | _ | _ | (_ | _) <;> first
    | exact ⟨fun _ => rfl, fun _ => rfl⟩
    | exact ⟨fun h => absurd (show false = true from h) (by decide), fun h => (by cases h)⟩

theorem asleep_enabled (k : Nat) (a : Agent) :
    (asleep k).enabled a = true ↔ a = .timer .l := by
  rcases a with (_ | _) | _ | _ | (_ | _) <;> first
    | exact ⟨fun _ => rfl, fun _ => rfl⟩
    | exact ⟨fun h => absurd (show false = true from h) (by decide), fun h => (by cases h)⟩

theorem sleeper_step (k : Nat) : step (sleeper k) = .next (asleep k) := by
  rw [step_of_mover (mover_of_only (sleeper_enabled k))]
  rfl

theorem asleep_step (k : Nat) : step (asleep k) = .next (sleeper (k + 1)) := by
  rw [step_of_mover (mover_of_only (asleep_enabled k))]
  simp only [sleeper, List.replicate_succ']
  rfl

theorem sleepRun_even (k : Nat) : sleepRun (2 * k) = sleeper k := by
  simp [sleepRun]

theorem sleepRun_odd (k : Nat) : sleepRun (2 * k + 1) = asleep k := by
  have h1 : (2 * k + 1) % 2 = 1 := by omega
  have h2 : (2 * k + 1) / 2 = k := by omega
  simp [sleepRun, h1, h2]

theorem witness_FairRunsEndEveryWait :
    IsRun sleepRun ∧ Fair sleepRun ∧ (sleepRun 0).Inv ∧
    ((sleepRun 1).seq .l).run = .waiting .sleepDone := by
  refine ⟨fun n => ?_, fun a n h => ?_, inv_of_invCheck (by decide), rfl⟩
  · show step _ = _
    rcases Nat.even_or_odd' n with ⟨k, rfl | rfl⟩
    · rw [sleepRun_even, sleepRun_odd, sleeper_step]
    · rw [sleepRun_odd, show 2 * k + 1 + 1 = 2 * (k + 1) by omega, sleepRun_even, asleep_step]
  · have h1 := h (2 * n) (by omega)
    have h2 := h (2 * n + 1) (by omega)
    rw [sleepRun_even, sleeper_enabled] at h1
    rw [sleepRun_odd, asleep_enabled] at h2
    rw [h1] at h2
    cases h2

/-! ## Witnesses: the wires -/

theorem witness_WireOrder :
    cfg.pixelWireOrder = .grb ∧ cfg.pulseBitOrder = .msbFirst ∧ cfg.spiBitOrder = .msbFirst ∧
    0 < 8 ∧ 7 < 8 := by decide

theorem witness_FrameDuration : cfg.pulseTiming = ⟨400, 850, 800, 450, 50000⟩ := by decide

end Sys2Proof.Tests
end

section
/-! The rounding of R11 and R214. Dropping `d` low bits writes `m = q * 2 ^ d + r`; the result is `q`
or `q + 1`, told apart by `2 * r` against `2 ^ d`. -/

namespace Sys2Proof.Machine

/-- How many low bits `roundToF32` drops: those beyond the 24th significant one, or those below
2 ^ -149, whichever are more. -/
def droppedBits (x : Scaled) : Nat :=
  max (Nat.log2 x.mant + 1 - 24) (-149 - x.exp).toNat

theorem roundToF32_mant (x : Scaled) :
    (roundToF32 x).mant = roundShift x.mant (droppedBits x) := rfl

theorem roundToF32_exp (x : Scaled) : (roundToF32 x).exp = x.exp + droppedBits x := rfl

/-- The two results of the rounding, each with the remainders that lead to it. -/
theorem roundShift_cases (m d : Nat) :
    (roundShift m d = m / 2 ^ d ∧
      (2 * (m % 2 ^ d) < 2 ^ d ∨ 2 * (m % 2 ^ d) = 2 ^ d ∧ m / 2 ^ d % 2 = 0)) ∨
    (roundShift m d = m / 2 ^ d + 1 ∧
      (2 ^ d < 2 * (m % 2 ^ d) ∨ 2 * (m % 2 ^ d) = 2 ^ d ∧ m / 2 ^ d % 2 = 1)) := by
  unfold roundShift
  dsimp only
  split_ifs with above tie
  · exact .inr ⟨rfl, .inl above⟩
  · exact .inr ⟨rfl, .inr tie⟩
  · exact .inl ⟨rfl, by omega⟩

theorem roundShift_le_succ_div (m d : Nat) : roundShift m d ≤ m / 2 ^ d + 1 := by
  rcases roundShift_cases m d with ⟨down, -⟩ | ⟨up, -⟩ <;> omega

/-- Half a unit of the last kept place, doubled, bounds the error on either side. -/
theorem roundShift_within_half_unit (m d : Nat) :
    2 * (roundShift m d * 2 ^ d) ≤ 2 * m + 2 ^ d ∧
      2 * m ≤ 2 * (roundShift m d * 2 ^ d) + 2 ^ d := by
  have parts := Nat.div_add_mod' m (2 ^ d)
  have small : m % 2 ^ d < 2 ^ d := Nat.mod_lt _ (Nat.two_pow_pos d)
  rcases roundShift_cases m d with ⟨down, _⟩ | ⟨up, _⟩
  · rw [down]; omega
  · rw [up, Nat.add_one_mul (m / 2 ^ d)]; omega

theorem roundShift_even_of_tie (m d : Nat)
    (tie : 2 * (roundShift m d * 2 ^ d) = 2 * m + 2 ^ d ∨
      2 * m = 2 * (roundShift m d * 2 ^ d) + 2 ^ d) :
    roundShift m d % 2 = 0 := by
  have parts := Nat.div_add_mod' m (2 ^ d)
  rcases roundShift_cases m d with ⟨down, _⟩ | ⟨up, _⟩
  · rw [down] at tie ⊢; omega
  · rw [up, Nat.add_one_mul (m / 2 ^ d)] at tie; omega

/-- The mantissa has at most `droppedBits x + 24` bits; rounding up may carry to `2 ^ 24` itself. -/
theorem roundToF32_mant_le (x : Scaled) : (roundToF32 x).mant ≤ 2 ^ 24 := by
  have enough : Nat.log2 x.mant + 1 ≤ droppedBits x + 24 := by unfold droppedBits; omega
  have bits : x.mant < 2 ^ droppedBits x * 2 ^ 24 := by
    rw [← Nat.pow_add]
    exact Nat.lt_log2_self.trans_le (Nat.pow_le_pow_right Nat.two_pos enough)
  calc (roundToF32 x).mant ≤ x.mant / 2 ^ droppedBits x + 1 := roundShift_le_succ_div _ _
    _ ≤ 2 ^ 24 := Nat.div_lt_of_lt_mul bits

theorem roundToF32_exp_ge (x : Scaled) : -149 ≤ (roundToF32 x).exp := by
  rw [roundToF32_exp, droppedBits]
  omega

/-- Bits are dropped only for a mantissa of more than 24 bits or down to the exponent -149. -/
theorem droppedBits_minimal (x : Scaled) :
    droppedBits x = 0 ∨ 2 ^ (droppedBits x + 23) ≤ x.mant ∨ (roundToF32 x).exp = -149 := by
  rw [roundToF32_exp]
  rcases Nat.eq_zero_or_pos (droppedBits x) with none_dropped | some_dropped
  · exact .inl none_dropped
  rcases le_total (Nat.log2 x.mant + 1 - 24) (-149 - x.exp).toNat with low | high
  · have eq : droppedBits x = (-149 - x.exp).toNat := max_eq_right low
    exact .inr (.inr (by omega))
  · have eq : droppedBits x = Nat.log2 x.mant + 1 - 24 := max_eq_left high
    have nonzero : x.mant ≠ 0 := fun zero => by rw [zero, Nat.log2_zero] at eq; omega
    have top : droppedBits x + 23 = Nat.log2 x.mant := by omega
    exact .inr (.inl (top ▸ Nat.log2_self_le nonzero))

/-- Settles O41: the witness is `droppedBits x`, the count that `roundToF32` itself takes. -/
theorem roundingIsToNearestEven : Obligations.RoundingIsToNearestEven := by
  intro x
  obtain ⟨above, below⟩ := roundShift_within_half_unit x.mant (droppedBits x)
  exact ⟨droppedBits x, roundToF32_exp x, roundToF32_mant_le x, roundToF32_exp_ge x,
    droppedBits_minimal x, above, below, roundShift_even_of_tie x.mant (droppedBits x)⟩

end Sys2Proof.Machine
end

section
/-! The two sides of the state (R27): what an agent's step does to the side of the unit it acts for
is a function of that side and of the drawn outcomes, and it leaves the other side as it is. -/

namespace Sys2Proof.Machine

/-! ## Sides -/

theorem sameSide_d {s t : State} : s.SameSide .d t ↔ t.cfg = s.cfg ∧ t.d = s.d ∧
    t.lines = s.lines ∧ t.drv = s.drv ∧ t.tfSinceInit = s.tfSinceInit ∧ t.spi = s.spi := by
  simp [State.SameSide, State.viewD]

theorem sameSide_l {s t : State} : s.SameSide .l t ↔ t.cfg = s.cfg ∧ t.l = s.l ∧
    t.led = s.led ∧ t.pulse = s.pulse := by
  simp [State.SameSide, State.viewL]

theorem State.SameSide.refl (u : UnitId) (s : State) : s.SameSide u s := by cases u <;> rfl

theorem State.SameSide.symm {u : UnitId} {s t : State} (h : s.SameSide u t) : t.SameSide u s := by
  cases u <;> exact Eq.symm h

theorem State.SameSide.trans {u : UnitId} {s t r : State} (h : s.SameSide u t)
    (h' : t.SameSide u r) : s.SameSide u r := by
  cases u <;> exact Eq.trans h' h

theorem State.SameSide.cfg_eq {u : UnitId} {s t : State} (h : s.SameSide u t) : t.cfg = s.cfg := by
  cases u
  · exact (sameSide_d.mp h).1
  · exact (sameSide_l.mp h).1

theorem State.SameSide.seq_eq {u : UnitId} {s t : State} (h : s.SameSide u t) :
    t.seq u = s.seq u := by
  cases u
  · exact (sameSide_d.mp h).2.1
  · exact (sameSide_l.mp h).2.1

theorem State.SameSide.current_eq {u : UnitId} {s t : State} (h : s.SameSide u t) :
    t.current u = s.current u :=
  current_congr (by rw [h.seq_eq]) (by rw [h.seq_eq])

theorem State.SameSide.items_eq {u : UnitId} {s t : State} (h : s.SameSide u t) :
    t.items u = s.items u :=
  items_congr h.cfg_eq (by rw [h.seq_eq]) (by rw [h.seq_eq])

theorem sameSide_withAgent (u : UnitId) (s : State) (a : Agent) : s.SameSide u (s.withAgent a) := by
  cases u <;> rfl

theorem sameSide_nextDraw (u : UnitId) (s : State) : s.SameSide u s.nextDraw := by
  cases u
  · simp [sameSide_d]
  · simp [sameSide_l]

theorem eq_otherUnit_of_ne {u v : UnitId} (h : v ≠ u) : v = otherUnit u := by
  cases u <;> cases v <;> simp_all [otherUnit]

/-! ## Changing a sequencer -/

theorem mapSeq_otherSide (u : UnitId) (f : Seq → Seq) (s : State) :
    s.SameSide (otherUnit u) (s.mapSeq u f) := by cases u <;> rfl

theorem mapSeq_sameSide {u : UnitId} {s t : State} (h : s.SameSide u t) {f g : Seq → Seq}
    (hfg : f (s.seq u) = g (s.seq u)) : (s.mapSeq u f).SameSide u (t.mapSeq u g) := by
  cases u
  · rw [sameSide_d] at h ⊢
    simp_all
  · rw [sameSide_l] at h ⊢
    simp_all

/-! ## Micro-operations -/

/-- Whether a micro-operation acts on what unit `u` owns (R27): the timer's act for either unit. -/
def Micro.ActsFor (u : UnitId) : Micro → Prop
  | .line _ _ | .spi _ | .drv _ | .drvReady => u = .d
  | .frame | .chase | .wheel => u = .l
  | .sleep _ | .tick | .ticker _ => True

/-- The micro-operations of a unit's operation act on what the unit owns (R27). -/
theorem item_actsFor {cfg : Config} {i : Instr} {u : UnitId} (ha : i.opcode.allows u = true)
    {k : Nat} {m : Micro} (h : (itemsOf cfg i)[k]? = some m) : m.ActsFor u := by
  obtain ⟨hd, hl⟩ := item_unit h
  cases u
  · obtain ⟨_, _, _⟩ := hd ha
    cases m <;> simp_all [Micro.ActsFor]
  · obtain ⟨_, _, _, _⟩ := hl ha
    cases m <;> simp_all [Micro.ActsFor]

theorem perform_otherSide {u : UnitId} {m : Micro} (hm : m.ActsFor u) (s : State) :
    s.SameSide (otherUnit u) (perform u m s) := by
  cases u <;> cases m <;> simp [Micro.ActsFor] at hm <;> rfl

theorem perform_sameSide {u : UnitId} {m : Micro} (hm : m.ActsFor u) {s t : State}
    (h : s.SameSide u t) : (perform u m s).SameSide u (perform u m t) := by
  cases u
  · rw [sameSide_d] at h ⊢
    cases m <;> simp [Micro.ActsFor] at hm <;> simp [perform, State.startSleep, State.startTick, h]
  · rw [sameSide_l] at h ⊢
    cases m <;> simp [Micro.ActsFor] at hm <;> simp [perform, State.startSleep, State.startTick, h]

theorem itemStep_otherSide {u : UnitId} {m : Micro} (hm : m.ActsFor u) (n : Nat) (s : State) :
    s.SameSide (otherUnit u) (itemStep u n m s) := by
  unfold itemStep
  split
  · exact perform_otherSide hm s
  · exact (perform_otherSide hm s).trans (mapSeq_otherSide ..)

theorem itemStep_sameSide {u : UnitId} {m : Micro} (hm : m.ActsFor u) (n : Nat) {s t : State}
    (h : s.SameSide u t) : (itemStep u n m s).SameSide u (itemStep u n m t) := by
  unfold itemStep
  split
  · exact perform_sameSide hm h
  · exact mapSeq_sameSide (perform_sameSide hm h) rfl

/-! ## Sequencer steps -/

theorem execCheck_sameSide {i : Instr} {u : UnitId} (ha : i.opcode.allows u = true) {s t : State}
    (hs : s.actor = u) (ht : t.actor = u) (h : s.SameSide u t) : execCheck i t = execCheck i s := by
  cases u
  · rw [sameSide_d] at h
    cases i <;> simp [Instr.opcode, Opcode.allows] at ha <;> simp [execCheck, hs, ht, h]
  · rw [sameSide_l] at h
    cases i <;> simp [Instr.opcode, Opcode.allows] at ha <;> simp [execCheck, hs, ht, h]

/-- What the step of an operation of unit `u` can do, by the unit's name: raise the fault of its
check, or run a micro-operation of the unit's own list (R28, R255). -/
theorem exec_next_of_current {s t : State} {u : UnitId} {i : Instr} (hu : s.actor = u)
    (hc : s.current u = some i) (h : exec i s = .next t) :
    ((s.seq u).mu = 0 ∧ (execCheck i s).1 = false ∧
      t = s.raise u (execCheck i s).2.1 (execCheck i s).2.2) ∨
    (((s.seq u).mu = 0 → (execCheck i s).1 = true) ∧
      ∃ m, (s.items u)[(s.seq u).mu]? = some m ∧ m.ActsFor u ∧
        t = itemStep u (s.items u).length m s) := by
  have ha := current_allows hc
  rw [items_of_current hc]
  have hx := exec_next h
  rw [execUnit_of_allows ha hu] at hx
  exact hx.imp id fun ⟨hk, m, hm, e⟩ => ⟨hk, m, hm, item_actsFor ha hm, e⟩

theorem exec_sameSide {s t s' t' : State} {u : UnitId} {i : Instr} (hs : s.actor = u)
    (ht : t.actor = u) (h : s.SameSide u t) (hc : s.current u = some i)
    (hs' : exec i s = .next s') (ht' : exec i t = .next t') : s'.SameSide u t' := by
  have hck := execCheck_sameSide (current_allows hc) hs ht h
  have hx := exec_next_of_current ht (h.current_eq.trans hc) ht'
  rw [hck, h.seq_eq, h.items_eq] at hx
  rcases exec_next_of_current hs hc hs' with ⟨h0, hf, rfl⟩ | ⟨hp, m, hm, hma, rfl⟩ <;>
    rcases hx with ⟨h0', hf', rfl⟩ | ⟨hp', m', hm', -, rfl⟩
  · exact mapSeq_sameSide h (by rw [h.cfg_eq])
  · simp [hp' h0] at hf
  · simp [hp h0'] at hf'
  · obtain rfl : m = m' := Option.some.inj (hm.symm.trans hm')
    exact itemStep_sameSide hma _ h

theorem unitStep_sameSide {s t s' t' : State} {u : UnitId} (hs : s.actor = u) (ht : t.actor = u)
    (h : s.SameSide u t) (hs' : s.unitStep u = .next s') (ht' : t.unitStep u = .next t') :
    s'.SameSide u t' := by
  cases ho : (s.seq u).op? with
  | none => simp [State.unitStep, ho] at hs'
  | some op =>
    have ho' : (t.seq u).op? = some op := by rw [h.seq_eq, ho]
    cases hd : op.decode u with
    | ok i =>
      rw [unitStep_of_ok ho hd] at hs'
      rw [unitStep_of_ok ho' hd] at ht'
      exact exec_sameSide hs ht h (current_eq_some.mpr ⟨op, ho, hd⟩) hs' ht'
    | illegalOp =>
      simp only [State.unitStep, ho, ho', hd, Host.Outcome.next.injEq] at hs' ht'
      subst hs' ht'
      exact mapSeq_sameSide h (by rw [h.cfg_eq])
    | payloadLength =>
      simp only [State.unitStep, ho, ho', hd, Host.Outcome.next.injEq] at hs' ht'
      subst hs' ht'
      exact mapSeq_sameSide h rfl

theorem unitStep_otherSide {s t : State} {u : UnitId} (hu : s.actor = u)
    (h : s.unitStep u = .next t) : s.SameSide (otherUnit u) t := by
  rcases unitStep_next h with ⟨i, hc, hi⟩ | ⟨op, _, _, rfl⟩ | ⟨op, _, _, rfl⟩
  · rcases exec_next_of_current hu hc hi with ⟨_, _, rfl⟩ | ⟨_, m, _, hm, rfl⟩
    · exact mapSeq_otherSide ..
    · exact itemStep_otherSide hm _ s
  · exact mapSeq_otherSide ..
  · exact mapSeq_otherSide ..

/-! ## Channel and timer steps -/

/-- The SPI channel idle and empty after a transmit fault, its end in the trace, and unit D going on
(R125). -/
def State.spiReleased (s : State) : State :=
  { s with
    spi := { s.spi with busy := false, q := [] }
    d := { s.d.emit (.spiEnd s.spi.sent .transmitFault) with run := .running } }

/-- The fault step of the SPI channel in one form: the channel is released, a composite operation
takes its fault path, and the fault is raised (R125, R127). -/
theorem spiFail_eq (s : State) :
    s.spiFail = (if (s.current .d).any isComposite then s.spiReleased.faultPath
      else s.spiReleased).raise .d .transmitFault (.transfer s.d.mu s.spi.sent) := by
  rw [State.spiFail, deliverFault_eq]
  rfl

theorem spiStep_sameSide {s t : State} (hd : t.draw.outcomes = s.draw.outcomes)
    (h : s.SameSide .d t) : s.spiStep.SameSide .d t.spiStep := by
  have hc := h.current_eq
  have hi := h.items_eq
  rw [sameSide_d] at h ⊢
  obtain ⟨hcfg, hseq, hlines, hdrv, htf, hspi⟩ := h
  simp only [Draw.outcomes, Prod.mk.injEq] at hd
  obtain ⟨hfault, hlevel, -, -⟩ := hd
  unfold State.spiStep
  rw [hfault, hspi]
  split
  · rw [spiFail_eq, spiFail_eq, hc]
    split <;> simp [State.raise, State.faultPath, State.spiReleased, *]
  · split
    · simp [State.spiTransmit, State.emit, *]
    · rw [spiComplete_eq, spiComplete_eq]
      simp [*]

theorem pulseStep_sameSide {s t : State} (hd : t.draw.outcomes = s.draw.outcomes)
    (h : s.SameSide .l t) : s.pulseStep.SameSide .l t.pulseStep := by
  have hi := h.items_eq
  rw [sameSide_l] at h ⊢
  obtain ⟨hcfg, hseq, hled, hpulse⟩ := h
  simp only [Draw.outcomes, Prod.mk.injEq] at hd
  obtain ⟨-, -, hfault, hsent⟩ := hd
  have hr : frameResult t.cfg t.draw = frameResult s.cfg s.draw := by
    simp [frameResult, hcfg, hfault]
  rw [pulseStep_wakes, pulseStep_wakes, hr]
  simp [hcfg, hseq, hled, hpulse, hsent, hi]

theorem timerStep_of_none {s : State} {u : UnitId} (h : (s.seq u).pending = none) :
    s.timerStep u = s := by simp [State.timerStep, h]

theorem timerStep_sameSide {s t : State} {u : UnitId} (h : s.SameSide u t) :
    (s.timerStep u).SameSide u (t.timerStep u) := by
  cases hp : (s.seq u).pending with
  | none => rwa [timerStep_of_none hp, timerStep_of_none (by rw [h.seq_eq, hp])]
  | some p =>
    rw [timerStep_eq hp, timerStep_eq (by rw [h.seq_eq, hp]), h.items_eq]
    exact mapSeq_sameSide h rfl

theorem spiStep_otherSide (s : State) : s.SameSide .l s.spiStep := by
  rcases spiStep_cases s with ⟨_, e⟩ | ⟨_, b, rest, _, e⟩ | ⟨_, _, e⟩ <;> rw [e]
  · rw [spiFail_eq]
    split <;> rfl
  · rfl
  · rw [spiComplete_eq]
    rfl

theorem pulseStep_otherSide (s : State) : s.SameSide .d s.pulseStep := by
  rw [pulseStep_wakes]
  rfl

theorem timerStep_otherSide (s : State) (u : UnitId) :
    s.SameSide (otherUnit u) (s.timerStep u) := by
  cases hp : (s.seq u).pending with
  | none => rw [timerStep_of_none hp]; exact .refl ..
  | some p => rw [timerStep_eq hp]; exact mapSeq_otherSide ..

/-! ## Steps of any agent -/

/-- An agent's step leaves the side of the unit it does not act for (R27). -/
theorem agentStep_otherSide {s t : State} {a : Agent} (ha : s.actor = a.owner)
    (h : s.agentStep a = .next t) : s.SameSide (otherUnit a.owner) t := by
  cases a with
  | unit u => exact unitStep_otherSide ha h
  | spi => exact Host.Outcome.next.inj h ▸ spiStep_otherSide s
  | pulse => exact Host.Outcome.next.inj h ▸ pulseStep_otherSide s
  | timer u => exact Host.Outcome.next.inj h ▸ timerStep_otherSide s u

/-- What an agent's step leaves of the side it acts for depends on that side and on the drawn
outcomes alone (R27, R71). -/
theorem agentStep_sameSide {s t s' t' : State} {a : Agent} (hs : s.actor = a.owner)
    (ht : t.actor = a.owner) (hd : t.draw.outcomes = s.draw.outcomes) (h : s.SameSide a.owner t)
    (hs' : s.agentStep a = .next s') (ht' : t.agentStep a = .next t') : s'.SameSide a.owner t' := by
  cases a with
  | unit u => exact unitStep_sameSide hs ht h hs' ht'
  | spi =>
    exact Host.Outcome.next.inj hs' ▸ Host.Outcome.next.inj ht' ▸ spiStep_sameSide hd h
  | pulse =>
    exact Host.Outcome.next.inj hs' ▸ Host.Outcome.next.inj ht' ▸ pulseStep_sameSide hd h
  | timer u => exact Host.Outcome.next.inj hs' ▸ Host.Outcome.next.inj ht' ▸ timerStep_sameSide h

/-- A step leaves the side of the unit for which the agent that moves does not act. -/
theorem step_otherSide {s t : State} {a : Agent} {u : UnitId} (hm : s.mover = some a)
    (hu : a.owner ≠ u) (h : step s = .next t) : s.SameSide u t := by
  obtain ⟨b, r, hb, hr, rfl⟩ := step_cases h
  obtain rfl : b = a := Option.some.inj (hb.symm.trans hm)
  rw [eq_otherUnit_of_ne hu.symm]
  exact (sameSide_withAgent _ s b).trans
    ((agentStep_otherSide (withAgent_actor s b) hr).trans (sameSide_nextDraw _ r))

/-- The step of an agent with the same drawn outcomes on the same side leaves the same side. -/
theorem step_sameSide {s t s' t' : State} {a : Agent} (hs : s.mover = some a)
    (ht : t.mover = some a) (hd : t.draw.outcomes = s.draw.outcomes) (h : s.SameSide a.owner t)
    (hs' : step s = .next s') (ht' : step t = .next t') : s'.SameSide a.owner t' := by
  obtain ⟨b, r, hb, hr, rfl⟩ := step_cases hs'
  obtain rfl : b = a := Option.some.inj (hb.symm.trans hs)
  obtain ⟨c, q, hc, hq, rfl⟩ := step_cases ht'
  obtain rfl : c = b := Option.some.inj (hc.symm.trans ht)
  have hside : (s.withAgent c).SameSide c.owner (t.withAgent c) :=
    (sameSide_withAgent _ s c).symm.trans (h.trans (sameSide_withAgent _ t c))
  exact (sameSide_nextDraw _ r).symm.trans
    ((agentStep_sameSide (withAgent_actor s c) (withAgent_actor t c) hd hside hr hq).trans
      (sameSide_nextDraw _ q))

end Sys2Proof.Machine
end

section
/-! Which agent of a unit has an enabled step (R20, R25): under the invariant, what the unit's
sequencer is doing names it. -/

namespace Sys2Proof.Machine

/-- The agent of unit `u` that has an enabled step while the unit's `run` is this (R25, R36). -/
def Run.agent (u : UnitId) : Run → Option Agent
  | .running => some (.unit u)
  | .waiting .spiDone => some .spi
  | .waiting .frameDone => some .pulse
  | .waiting .sleepDone | .waiting .tickDone => some (.timer u)
  | .done | .halted => none

theorem agent_eq_unit {u v : UnitId} {r : Run} :
    r.agent u = some (.unit v) ↔ v = u ∧ r = .running := by
  rcases r with _ | (_ | _ | _ | _) | _ | _ <;> simp [Run.agent, eq_comm]

theorem agent_eq_spi {u : UnitId} {r : Run} : r.agent u = some .spi ↔ r = .waiting .spiDone := by
  rcases r with _ | (_ | _ | _ | _) | _ | _ <;> simp [Run.agent]

theorem agent_eq_pulse {u : UnitId} {r : Run} :
    r.agent u = some .pulse ↔ r = .waiting .frameDone := by
  rcases r with _ | (_ | _ | _ | _) | _ | _ <;> simp [Run.agent]

theorem agent_eq_timer {u v : UnitId} {r : Run} : r.agent u = some (.timer v) ↔
    v = u ∧ (r = .waiting .sleepDone ∨ r = .waiting .tickDone) := by
  rcases r with _ | (_ | _ | _ | _) | _ | _ <;> simp [Run.agent, eq_comm]

theorem agent_eq_none {u : UnitId} {r : Run} : r.agent u = none ↔ r = .done ∨ r = .halted := by
  rcases r with _ | (_ | _ | _ | _) | _ | _ <;> simp [Run.agent]

theorem pending_isSome_iff {s : State} {u : UnitId} (h : UnitInv s u) :
    (s.seq u).pending.isSome = true ↔
      (s.seq u).run = .waiting .sleepDone ∨ (s.seq u).run = .waiting .tickDone := by
  rw [h.sleepWait, h.tickWait]
  rcases (s.seq u).pending with _ | (_ | _) <;> simp

/-- A unit's agent has an enabled step exactly where the unit's `run` names it. -/
theorem enabled_iff_agent {s : State} {a : Agent} (h : UnitInv s a.owner) :
    s.enabled a = true ↔ (s.seq a.owner).run.agent a.owner = some a := by
  cases a with
  | unit u => exact (agent_eq_unit.trans ((and_iff_right rfl).trans beq_iff_eq.symm)).symm
  | spi => exact (agent_eq_spi.trans (h.spiWait.trans (and_iff_right rfl))).symm
  | pulse => exact (agent_eq_pulse.trans (h.frameWait.trans (and_iff_right rfl))).symm
  | timer u =>
    exact (agent_eq_timer.trans ((and_iff_right rfl).trans (pending_isSome_iff h).symm)).symm

/-- The agent that a unit's `run` names acts for the unit. -/
theorem owner_of_agent {s : State} {u : UnitId} {a : Agent} (h : UnitInv s u)
    (ha : (s.seq u).run.agent u = some a) : a.owner = u := by
  cases a with
  | unit v => exact (agent_eq_unit.mp ha).1
  | spi => exact (h.spiWait.mp (agent_eq_spi.mp ha)).1.symm
  | pulse => exact (h.frameWait.mp (agent_eq_pulse.mp ha)).1.symm
  | timer v => exact (agent_eq_timer.mp ha).1

theorem enabled_of_agent {s : State} {u : UnitId} {a : Agent} (h : UnitInv s u)
    (ha : (s.seq u).run.agent u = some a) : s.enabled a = true := by
  obtain rfl := owner_of_agent h ha
  exact (enabled_iff_agent h).mpr ha

/-- The agent that moves is the one its unit's `run` names. -/
theorem agent_of_mover {s : State} (h : s.Inv) {a : Agent} (hm : s.mover = some a) :
    (s.seq a.owner).run.agent a.owner = some a :=
  (enabled_iff_agent (h.unit _)).mp (mover_enabled hm)

/-- Settles O51: a unit's enabled agents are those that its one `run` names. -/
theorem oneAgentPerUnit : Obligations.OneAgentPerUnit := by
  intro s u h
  refine ⟨fun hrun => ?_, fun hstop a ha => ?_, fun a b ha hb hae hbe => ?_⟩
  · cases hag : (s.seq u).run.agent u with
    | none => exact absurd (agent_eq_none.mp hag) hrun
    | some a => exact ⟨a, owner_of_agent (h.unit u) hag, enabled_of_agent (h.unit u) hag⟩
  · subst ha
    have hnone := agent_eq_none (u := a.owner).mpr hstop
    by_contra hen
    have := (enabled_iff_agent (h.unit _)).mp (Bool.eq_true_of_not_eq_false hen)
    simp [hnone] at this
  · subst ha
    rw [enabled_iff_agent (h.unit _)] at hae hbe
    rw [hb, hae] at hbe
    exact Option.some.inj hbe

/-- Settles O53: no agent of a stopped unit moves, and the other unit's agents leave its side. -/
theorem stoppedUnitsStay : Obligations.StoppedUnitsStay := by
  intro s t u h hst hstop
  obtain ⟨a, _, hm, -, -⟩ := step_cases hst
  have hu : a.owner ≠ u := by
    rintro rfl
    have := agent_of_mover h hm
    simp [agent_eq_none.mpr hstop] at this
  have hside := step_otherSide hm hu hst
  exact ⟨hside.seq_eq, hside⟩

end Sys2Proof.Machine
end

section
/-! Every step keeps the invariant of every run. The invariant is taken apart into the two units'
sides; a step changes one of them, and there it halts the unit, starts one of its agents, or, with
the unit ready to go on, finishes a micro-operation or the operation. -/

namespace Sys2Proof.Machine

/-! ## The invariant by sides -/

/-- What the invariant says of unit D's lines, driver state and SPI channel. -/
structure DisplayInv (s : State) : Prop where
  spiIdle : s.spi.busy = false → s.spi.q = []
  spiWrite : s.spi.busy = true → ∃ sent,
    (s.items .d)[s.d.mu]? = some (.spi (sent ++ s.spi.q)) ∧ sent.length = s.spi.sent
  csAsserted : s.spi.busy = true → s.spi.q ≠ [] → s.lines.cs = Config.csActive
  linesDriven : s.d.run ≠ .halted → ∀ line v,
    lastDriven line ((s.items .d).take s.d.mu) = some v → s.lines.get line = v
  initializing : s.drv = .initializing ↔
    s.current .d = some .dispInit ∧ 0 < s.d.mu ∧ s.d.run ≠ .halted

/-- What the invariant says of unit L's frame buffer and pulse channel. -/
structure FrameInv (s : State) : Prop where
  fbLength : s.led.fb.length = s.cfg.nPixels
  head : s.led.h < s.cfg.nPixels
  wheel : s.led.j < Config.wheelCycle
  snap : s.pulse.snap.length = if s.pulse.busy then s.cfg.nPixels else 0

/-- What the invariant says of unit `u`'s side. -/
def State.SideInv (u : UnitId) (s : State) : Prop :=
  UnitInv s u ∧ match u with
    | .d => DisplayInv s
    | .l => FrameInv s

theorem inv_iff_sides {s : State} : s.Inv ↔ configOk s.cfg = true ∧ ∀ u, s.SideInv u := by
  constructor
  · intro h
    refine ⟨h.config, fun u => ⟨h.unit u, ?_⟩⟩
    cases u
    · exact ⟨h.spiIdle, h.spiWrite, h.csAsserted, h.linesDriven, h.initializing⟩
    · exact ⟨h.fbLength, h.head, h.wheel, h.snap⟩
  · rintro ⟨hc, hs⟩
    obtain ⟨-, hd⟩ := hs .d
    obtain ⟨-, hl⟩ := hs .l
    exact ⟨hc, fun u => (hs u).1, hl.fbLength, hl.head, hl.wheel, hl.snap, hd.spiIdle, hd.spiWrite,
      hd.csAsserted, hd.linesDriven, hd.initializing⟩

/-- A unit's channel is busy or not on the unit's own side. -/
theorem channels_sameSide {u : UnitId} {s t : State} (h : s.SameSide u t) :
    (u = .d → t.spi = s.spi) ∧ (u = .l → t.pulse = s.pulse) := by
  cases u
  · simp [(sameSide_d.mp h)]
  · simp [(sameSide_l.mp h)]

theorem unitInv_sameSide {u : UnitId} {s t : State} (h : s.SameSide u t) (hi : UnitInv s u) :
    UnitInv t u := by
  obtain ⟨hspi, hpulse⟩ := channels_sameSide h
  have hq := h.seq_eq
  have hm := h.items_eq
  obtain ⟨h1, h2, h3, h4, h5, h6, h7, h8, h9, h10, h11⟩ := hi
  constructor <;> rw [hq]
  · exact h1
  · exact h2
  · rw [hm]; exact h3
  · rw [hm]; exact h4
  · rw [h5]; exact and_congr_right fun hu => by rw [hspi hu]
  · rw [h6]; exact and_congr_right fun hu => by rw [hpulse hu]
  · exact h7
  · exact h8
  · exact h9
  · exact h10
  · exact h11

theorem sideInv_sameSide {u : UnitId} {s t : State} (h : s.SameSide u t) (hi : s.SideInv u) :
    t.SideInv u := by
  refine ⟨unitInv_sameSide h hi.1, ?_⟩
  have hc := h.current_eq
  have hm := h.items_eq
  obtain ⟨-, hi⟩ := hi
  cases u
  · obtain ⟨-, hd, hl, hdrv, -, hs⟩ := sameSide_d.mp h
    obtain ⟨h1, h2, h3, h4, h5⟩ := hi
    constructor <;> simp only [hd, hl, hdrv, hs, hc, hm] <;> assumption
  · obtain ⟨hcfg, -, hled, hp⟩ := sameSide_l.mp h
    obtain ⟨h1, h2, h3, h4⟩ := hi
    constructor <;> simp only [hcfg, hled, hp] <;> assumption

/-! ## A unit that is ready to go on -/

/-- The unit is at an operation of its program, and no agent of its own is busy: what its sequencer
finds (R28) and what a completion step leaves it (R30). -/
structure UnitReady (s : State) (u : UnitId) : Prop where
  running : (s.seq u).run = .running
  inProgram : (s.seq u).pc < (s.seq u).prog.ops.length
  noWait : (s.seq u).pending = none
  spiIdle : u = .d → s.spi.busy = false
  pulseIdle : u = .l → s.pulse.busy = false
  notRefused : (s.seq u).refused = false
  period : 1 ≤ (s.seq u).ticker.period.toNat

theorem UnitInv.ready {s : State} {u : UnitId} (h : UnitInv s u)
    (hr : (s.seq u).run = .running) : UnitReady s u where
  running := hr
  inProgram := h.inProgram (by simp [Seq.stopped, hr])
  noWait := pending_of_running h hr
  spiIdle := by
    rintro rfl
    exact spi_idle_of_not_waiting h (by simp [show s.d.run = _ from hr])
  pulseIdle := by
    rintro rfl
    exact pulse_idle_of_not_waiting h (by simp [show s.l.run = _ from hr])
  notRefused := refused_of_not_halted h (by simp [hr])
  period := h.period

/-- In `t` unit `u` is at the place where it was in `s`, running, with no agent of its own busy. -/
structure Resumed (u : UnitId) (s t : State) : Prop where
  running : (t.seq u).run = .running
  cfg : t.cfg = s.cfg
  prog : (t.seq u).prog = (s.seq u).prog
  pc : (t.seq u).pc = (s.seq u).pc
  mu : (t.seq u).mu = (s.seq u).mu
  refused : (t.seq u).refused = (s.seq u).refused
  period : (t.seq u).ticker.period = (s.seq u).ticker.period
  noWait : (t.seq u).pending = none
  spiIdle : u = .d → t.spi.busy = false
  pulseIdle : u = .l → t.pulse.busy = false

theorem Resumed.items_eq {u : UnitId} {s t : State} (h : Resumed u s t) : t.items u = s.items u :=
  items_congr h.cfg h.prog h.pc

theorem Resumed.current_eq {u : UnitId} {s t : State} (h : Resumed u s t) :
    t.current u = s.current u := current_congr h.prog h.pc

theorem not_stopped_of_waiting {q : Seq} {w : Wait} (h : q.run = .waiting w) : ¬ q.stopped := by
  simp [Seq.stopped, h]

/-- A unit that waited is ready once its wait is over. -/
theorem UnitInv.ready_after {s t : State} {u : UnitId} (h : UnitInv s u) {w : Wait}
    (hw : (s.seq u).run = .waiting w) (hres : Resumed u s t) : UnitReady t u where
  running := hres.running
  inProgram := by rw [hres.prog, hres.pc]; exact h.inProgram (not_stopped_of_waiting hw)
  noWait := hres.noWait
  spiIdle := hres.spiIdle
  pulseIdle := hres.pulseIdle
  notRefused := by rw [hres.refused]; exact refused_of_not_halted h (by simp [hw])
  period := by rw [hres.period]; exact h.period

/-- A unit that waits for nothing meets the clauses of the invariant about waits. -/
theorem unitInv_of_no_wait {t : State} {u : UnitId} (hw : ∀ w, (t.seq u).run ≠ .waiting w)
    (hp : (t.seq u).pending = none) (hspi : u = .d → t.spi.busy = false)
    (hpulse : u = .l → t.pulse.busy = false)
    (hin : ¬ (t.seq u).stopped → (t.seq u).pc < (t.seq u).prog.ops.length)
    (hdone : (t.seq u).run = .done → (t.seq u).mu = 0)
    (hlist : (t.seq u).run = .running → 0 < (t.seq u).mu → (t.seq u).mu < (t.items u).length)
    (href : (t.seq u).refused = true → (t.seq u).run = .halted)
    (hwhy : (t.seq u).run = .halted → (t.seq u).fault ≠ none ∨ (t.seq u).refused = true)
    (hper : 1 ≤ (t.seq u).ticker.period.toNat) : UnitInv t u where
  inProgram := hin
  doneAtStart := hdone
  insideList := hlist
  waitsForItem := fun w hr => absurd hr (hw w)
  spiWait := ⟨fun hr => absurd hr (hw _), fun ⟨hu, hb⟩ => by simp [hspi hu] at hb⟩
  frameWait := ⟨fun hr => absurd hr (hw _), fun ⟨hu, hb⟩ => by simp [hpulse hu] at hb⟩
  sleepWait := ⟨fun hr => absurd hr (hw _), fun ⟨ms, h⟩ => by simp [hp] at h⟩
  tickWait := ⟨fun hr => absurd hr (hw _), fun h => by simp [hp] at h⟩
  refusedHalted := href
  haltedWhy := hwhy
  period := hper

/-- A unit that waits meets the invariant where what is busy is what it waits for (R36). -/
theorem unitInv_of_wait {t : State} {u : UnitId} {w : Wait} (hr : (t.seq u).run = .waiting w)
    (hitem : ∃ m, (t.items u)[(t.seq u).mu]? = some m ∧ m.wait = some w)
    (hspi : w = .spiDone ↔ u = .d ∧ t.spi.busy = true)
    (hframe : w = .frameDone ↔ u = .l ∧ t.pulse.busy = true)
    (hsleep : w = .sleepDone ↔ ∃ ms, (t.seq u).pending = some (.sleep ms))
    (htick : w = .tickDone ↔ (t.seq u).pending = some .tick)
    (hin : (t.seq u).pc < (t.seq u).prog.ops.length) (href : (t.seq u).refused = false)
    (hper : 1 ≤ (t.seq u).ticker.period.toNat) : UnitInv t u where
  inProgram := fun _ => hin
  doneAtStart := by simp [hr]
  insideList := by simp [hr]
  waitsForItem := fun w' hw => Run.waiting.inj (hr.symm.trans hw) ▸ hitem
  spiWait := by rw [hr, Run.waiting.injEq]; exact hspi
  frameWait := by rw [hr, Run.waiting.injEq]; exact hframe
  sleepWait := by rw [hr, Run.waiting.injEq]; exact hsleep
  tickWait := by rw [hr, Run.waiting.injEq]; exact htick
  refusedHalted := by simp [href]
  haltedWhy := by simp [hr]
  period := hper

/-- A ready unit that halts, with a record or a refusal mark (R256, R257). -/
theorem UnitReady.halt {s : State} {u : UnitId} (h : UnitReady s u) {f : Seq → Seq}
    (hrun : (f (s.seq u)).run = .halted) (hp : (f (s.seq u)).pending = (s.seq u).pending)
    (hper : (f (s.seq u)).ticker = (s.seq u).ticker)
    (hwhy : (f (s.seq u)).fault ≠ none ∨ (f (s.seq u)).refused = true) :
    UnitInv (s.mapSeq u f) u := by
  apply unitInv_of_no_wait <;> simp [Seq.stopped, hrun, hp, hper, h.noWait, h.period]
  · exact h.spiIdle
  · exact h.pulseIdle
  · exact hwhy

/-- A ready unit that completes its operation (R29). -/
theorem UnitReady.complete {s : State} {u : UnitId} (h : UnitReady s u) (st : Status) :
    UnitInv (s.mapSeq u (Seq.complete st)) u := by
  have hrun : ((s.seq u).complete st).run = .running ∨ ((s.seq u).complete st).run = .done := by
    simpa [h.running] using complete_run (s.seq u) st
  apply unitInv_of_no_wait <;> simp only [mapSeq_seq, mapSeq_spi, mapSeq_pulse]
  · intro w hw
    simp [hw] at hrun
  · simpa using h.noWait
  · exact h.spiIdle
  · exact h.pulseIdle
  · exact fun hns => advance_inProgram _ fun hd => hns (.inl hd)
  · simp
  · simp
  · simp [h.notRefused]
  · intro hh
    simp [hh] at hrun
  · simpa using h.period

/-- A ready unit that finishes a micro-operation (R30). -/
theorem UnitReady.finish {s : State} {u : UnitId} (h : UnitReady s u) :
    UnitInv (s.mapSeq u (Seq.finish (s.items u).length)) u := by
  rcases finish_cases (s.seq u) (s.items u).length with ⟨hlt, e⟩ | ⟨_, e⟩
  · have hi : (s.mapSeq u (Seq.finish (s.items u).length)).items u = s.items u :=
      items_congr (by simp) (by simp) (by simp [e])
    apply unitInv_of_no_wait <;>
      simp [e, hi, hlt, Seq.stopped, h.running, h.noWait, h.inProgram, h.period, h.notRefused]
    · exact h.spiIdle
    · exact h.pulseIdle
  · exact unitInv_sameSide (mapSeq_sameSide (.refl u s) e.symm) (h.complete .ok)

/-- Raising a fault that is not PULSE_FAULT: the record is written, and the unit halts or, for a
TRANSMIT_FAULT under Continue, completes its operation (R256). -/
theorem raise_cases (cfg : Config) (u : UnitId) {code : FaultCode} (hc : code ≠ .pulseFault)
    (info : FaultInfo) (q : Seq) :
    q.raise cfg u code info = { q.record u code info with run := .halted } ∨
    q.raise cfg u code info = (q.record u code info).complete .transmitFault := by
  cases hh : code.halts cfg
  · right
    cases code <;> simp_all [FaultCode.halts, Seq.raise]
  · exact .inl (raise_of_halts hh u info q)

theorem UnitReady.raise {s : State} {u : UnitId} (h : UnitReady s u) {code : FaultCode}
    (hc : code ≠ .pulseFault) (info : FaultInfo) : UnitInv (s.raise u code info) u := by
  rcases raise_cases s.cfg u hc info (s.seq u) with e | e
  · refine h.halt ?_ ?_ ?_ (.inl ?_) <;> rw [e]
    · simp
    · simp
    · simp [record_fault]
  · have hrec : UnitReady (s.mapSeq u (Seq.record u code info)) u := by
      obtain ⟨h1, h2, h3, h4, h5, h6, h7⟩ := h
      constructor <;> simp <;> assumption
    refine unitInv_sameSide ?_ (hrec.complete .transmitFault)
    have hg : (s.mapSeq u (Seq.record u code info)).mapSeq u (Seq.complete .transmitFault) =
        s.mapSeq u fun q => (q.record u code info).complete .transmitFault := by cases u <;> rfl
    rw [hg]
    exact mapSeq_sameSide (.refl u s) e.symm

/-! ## A unit's sequencer and its micro-operations -/

/-- A TICKER_SET that has passed its check has a period of at least 1 (R195, R196). -/
theorem ticker_item {cfg : Config} {i : Instr} {k : Nat} {period : Half}
    (h : (itemsOf cfg i)[k]? = some (.ticker period)) : i = .tickerSet period ∧ k = 0 := by
  have hmem := List.mem_of_getElem? h
  cases i
  case tickerSet p =>
    rcases k with _ | k
    · simpa [itemsOf] using h
    · simp [itemsOf] at h
  case dispInit =>
    cases hm : cfg.initResetMode <;>
      simp [itemsOf, initItems, resetPulseItems, commandItems, hm] at hmem
  all_goals simp [itemsOf, commandItems, dataItems] at hmem

/-- An immediate micro-operation leaves the unit ready. -/
theorem UnitReady.perform {s : State} {u : UnitId} (h : UnitReady s u) {m : Micro}
    (hu : m.ActsFor u) (hw : m.wait = none) (hp : ∀ period, m = .ticker period → 1 ≤ period.toNat) :
    UnitReady (perform u m s) u := by
  obtain ⟨h1, h2, h3, h4, h5, h6, h7⟩ := h
  cases m <;> simp only [Micro.wait, reduceCtorEq] at hw
  case ticker period => cases u <;> exact ⟨h1, h2, h3, h4, h5, h6, hp period rfl⟩
  all_goals cases u <;> exact ⟨h1, h2, h3, h4, h5, h6, h7⟩

/-- A micro-operation leaves each unit at its place in its program (R28). -/
@[simp] theorem perform_prog (u v : UnitId) (m : Micro) (s : State) :
    ((perform u m s).seq v).prog = (s.seq v).prog := by cases m <;> cases u <;> cases v <;> rfl
@[simp] theorem perform_pc (u v : UnitId) (m : Micro) (s : State) :
    ((perform u m s).seq v).pc = (s.seq v).pc := by cases m <;> cases u <;> cases v <;> rfl
@[simp] theorem perform_mu (u v : UnitId) (m : Micro) (s : State) :
    ((perform u m s).seq v).mu = (s.seq v).mu := by cases m <;> cases u <;> cases v <;> rfl
@[simp] theorem perform_current (u v : UnitId) (m : Micro) (s : State) :
    (perform u m s).current v = s.current v := current_congr (by simp) (by simp)
@[simp] theorem perform_items (u v : UnitId) (m : Micro) (s : State) :
    (perform u m s).items v = s.items v := items_congr (by simp) (by simp) (by simp)

/-- A micro-operation that starts an agent leaves the unit waiting for that agent (R30, R36). -/
theorem UnitReady.start {s : State} {u : UnitId} (h : UnitReady s u) {m : Micro}
    (hm : (s.items u)[(s.seq u).mu]? = some m) (hu : m.ActsFor u) (hw : m.wait.isSome = true) :
    UnitInv (Machine.perform u m s) u := by
  have hitem : ∀ w, m.wait = some w → ∃ m', ((Machine.perform u m s).items u)[
      ((Machine.perform u m s).seq u).mu]? = some m' ∧ m'.wait = some w :=
    fun w hw => ⟨m, by simpa using hm, hw⟩
  obtain ⟨-, hin, hno, hspi, hpulse, href, hper⟩ := h
  cases m <;> simp only [Micro.wait, Option.isSome_none, Bool.false_eq_true] at hw
  case spi bytes =>
    obtain rfl : u = .d := hu
    exact unitInv_of_wait rfl (hitem _ rfl) (by simp [Machine.perform]) (by simp)
      (by simp_all [Machine.perform]) (by simp_all [Machine.perform]) hin href hper
  case frame =>
    obtain rfl : u = .l := hu
    exact unitInv_of_wait rfl (hitem _ rfl) (by simp) (by simp [Machine.perform])
      (by simp_all [Machine.perform]) (by simp_all [Machine.perform]) hin href hper
  case sleep ms =>
    refine unitInv_of_wait (by simp [Machine.perform, State.startSleep]) (hitem _ rfl) ?_ ?_ ?_ ?_
      (by simpa using hin) ?_ ?_ <;> simp [Machine.perform, State.startSleep, href, hper]
    · exact hspi
    · exact hpulse
  case tick =>
    refine unitInv_of_wait (by simp [Machine.perform, State.startTick]) (hitem _ rfl) ?_ ?_ ?_ ?_
      (by simpa using hin) ?_ ?_ <;> simp [Machine.perform, State.startTick, href, hper]
    · exact hspi
    · exact hpulse

/-! ## Unit D's lines, driver state and channel -/

theorem lastDriven_take_line {items : List Micro} {k : Nat} {j : Line} {v : Level}
    (h : items[k]? = some (.line j v)) (line : Line) :
    lastDriven line (items.take (k + 1)) =
      if j = line then some v else lastDriven line (items.take k) := by
  rw [List.take_add_one, h]
  exact lastDriven_append_one line _ _

theorem lastDriven_take_other {items : List Micro} {k : Nat} {m : Micro} (h : items[k]? = some m)
    (hm : ∀ j v, m ≠ .line j v) (line : Line) :
    lastDriven line (items.take (k + 1)) = lastDriven line (items.take k) := by
  rw [List.take_add_one, h]
  refine (lastDriven_append_one line _ m).trans ?_
  cases m
  case line j v => exact absurd rfl (hm j v)
  all_goals rfl

theorem init_last (cfg : Config) :
    (initItems cfg)[(initItems cfg).length - 1]? = some .drvReady := by
  rw [← List.getLast?_eq_getElem?]
  exact List.getLast?_concat ..

/-- Outside an operation, with an idle channel, the invariant asks only that the driver is not
initializing. -/
theorem displayInv_of_start {t : State} (hb : t.spi.busy = false) (hq : t.spi.q = [])
    (hdrv : t.drv ≠ .initializing) (h0 : t.d.run = .halted ∨ t.d.mu = 0) : DisplayInv t where
  spiIdle := fun _ => hq
  spiWrite := by simp [hb]
  csAsserted := by simp [hb]
  linesDriven := by
    intro hr line v hv
    simp [h0.resolve_left hr, lastDriven] at hv
  initializing := by
    refine ⟨fun h => absurd h hdrv, fun ⟨_, hmu, hr⟩ => ?_⟩
    have := h0.resolve_left hr
    omega

/-- Finishing a micro-operation, where the lines and the driver state are as the list asks after
it. -/
theorem displayInv_finish {s : State} (hb : s.spi.busy = false) (hq : s.spi.q = [])
    (hr : s.d.run = .running)
    (hlines : ∀ line v, lastDriven line ((s.items .d).take (s.d.mu + 1)) = some v →
      s.lines.get line = v)
    (hdrv : s.drv = .initializing ↔
      s.current .d = some .dispInit ∧ s.d.mu + 1 < (s.items .d).length) :
    DisplayInv (s.mapSeq .d (Seq.finish (s.items .d).length)) := by
  rcases finish_cases s.d (s.items .d).length with ⟨hlt, e⟩ | ⟨hge, e⟩
  · have hi : (s.mapSeq .d (Seq.finish (s.items .d).length)).items .d = s.items .d :=
      items_congr (by simp) (by simp) (by simp [e])
    have hc : (s.mapSeq .d (Seq.finish (s.items .d).length)).current .d = s.current .d :=
      current_congr (by simp) (by simp [e])
    constructor <;> simp only [hi, hc, mapSeq_d_d, mapSeq_spi, mapSeq_lines, mapSeq_drv, e]
    · exact fun _ => hq
    · simp [hb]
    · simp [hb]
    · exact fun _ => hlines
    · simp [hdrv, hlt, hr]
  · refine displayInv_of_start (by simpa using hb) (by simpa using hq) ?_ (.inr (by simp [e]))
    simp only [mapSeq_drv, ne_eq, hdrv]
    exact fun h => hge h.2

/-- DISP_INIT writes `drv` at its first and at its last micro-operation alone, so the driver stays
initializing from one of the others to the next (R140, R141). -/
theorem initializing_between {s : State} {m : Micro} (hm : (s.items .d)[s.d.mu]? = some m)
    (hd : ∀ x, m ≠ .drv x) (hdr : m ≠ .drvReady) :
    (s.current .d = some .dispInit ∧ 0 < s.d.mu) ↔
      s.current .d = some .dispInit ∧ s.d.mu + 1 < (s.items .d).length := by
  refine and_congr_right fun hc => ?_
  have hi : s.items .d = initItems s.cfg := items_of_current hc
  rw [hi] at hm ⊢
  refine iff_of_true ?_ ?_
  · by_contra h0
    rw [show s.d.mu = 0 by omega, init_zero] at hm
    exact hd _ (Option.some.inj hm).symm
  · by_contra hge
    have hlt := (List.getElem?_eq_some_iff.mp hm).1
    rw [show s.d.mu = (initItems s.cfg).length - 1 by omega, init_last] at hm
    exact hdr (Option.some.inj hm).symm

/-- What a unit waits for is no line write and no write of `drv` (R30). -/
theorem wait_item_ne {m : Micro} {w : Wait} (h : m.wait = some w) :
    (∀ j v, m ≠ .line j v) ∧ (∀ x, m ≠ .drv x) ∧ m ≠ .drvReady := by
  cases m <;> simp_all [Micro.wait]

/-- Finishing the micro-operation that unit D has waited for. -/
theorem DisplayInv.finish {s t : State} (h : DisplayInv s) (hu : UnitInv s .d) {w : Wait}
    (hw : s.d.run = .waiting w) (hres : Resumed .d s t) (hlines : t.lines = s.lines)
    (hdrv : t.drv = s.drv) (hq : t.spi.q = []) :
    DisplayInv (t.mapSeq .d (Seq.finish (t.items .d).length)) := by
  obtain ⟨m, hm, hmw⟩ := hu.waitsForItem w hw
  obtain ⟨hl, hd, hdr⟩ := wait_item_ne hmw
  have hmu : t.d.mu = s.d.mu := hres.mu
  apply displayInv_finish (hres.spiIdle rfl) hq hres.running <;> rw [hres.items_eq, hmu]
  · intro line v hv
    rw [hlines]
    exact h.linesDriven (by simp [hw]) line v (lastDriven_take_other hm hl line ▸ hv)
  · rw [hdrv, hres.current_eq, ← initializing_between hm hd hdr, h.initializing]
    simp [hw]

/-- An immediate micro-operation of unit D's list, with its finish. -/
theorem DisplayInv.immediate {s : State} (h : DisplayInv s) (hrdy : UnitReady s .d) {i : Instr}
    (hc : s.current .d = some i) {m : Micro} (hm : (s.items .d)[s.d.mu]? = some m)
    (hu : m.ActsFor .d) (hw : m.wait = none) :
    DisplayInv ((perform .d m s).mapSeq .d (Seq.finish (s.items .d).length)) := by
  have hrun : s.d.run = .running := hrdy.running
  have hb := hrdy.spiIdle rfl
  have hq := h.spiIdle hb
  have hinit : s.drv = .initializing ↔ s.current .d = some .dispInit ∧ 0 < s.d.mu := by
    simp [h.initializing, hrun]
  have hlines := h.linesDriven (by simp [hrun])
  have hother : (∀ j v, m ≠ .line j v) → ∀ line v,
      lastDriven line ((s.items .d).take (s.d.mu + 1)) = some v → s.lines.get line = v :=
    fun hl line v hv => hlines line v (lastDriven_take_other hm hl line ▸ hv)
  have hfin := displayInv_finish (s := perform .d m s)
  simp only [perform_items, perform_current, ← seq_d, perform_mu] at hfin
  have hmi := hm
  rw [items_of_current hc] at hmi
  cases m <;> simp only [Micro.wait, Micro.ActsFor, reduceCtorEq] at hw hu
  case line j v =>
    refine hfin hb hq hrun (fun line v' hv => ?_)
      (hinit.trans (initializing_between hm (by simp) (by simp)))
    rw [seq_d, lastDriven_take_line hm] at hv
    rcases eq_or_ne j line with rfl | hne
    · simpa [perform] using hv
    · rw [if_neg hne] at hv
      exact (get_drive_of_ne _ _ _ _ hne.symm).trans (hlines line v' hv)
  case drv x =>
    obtain ⟨rfl, h0, rfl⟩ := drv_item.1 hmi
    refine hfin hb hq hrun (hother (by simp)) (iff_of_true rfl ⟨hc, ?_⟩)
    rw [items_of_current hc, seq_d, h0]
    exact init_length s.cfg
  case drvReady =>
    obtain ⟨rfl, hlast⟩ := (drv_item (d := .ready)).2 hmi
    refine hfin hb hq hrun (hother (by simp)) ?_
    simp [perform, items_of_current hc, hlast]
  case ticker period =>
    exact hfin hb hq hrun (hother (by simp))
      (hinit.trans (initializing_between hm (by simp) (by simp)))

/-- CS is asserted where a write of one byte or more starts (R122, R153): a display operation has
asserted it, and SPI_WRITE has checked it. -/
theorem cs_of_spi_item {s : State} (h : DisplayInv s) (hr : s.d.run ≠ .halted) {i : Instr}
    (hc : s.current .d = some i) (hck : s.d.mu = 0 → (execCheck i s).1 = true) {bytes : List Byte}
    (hm : (s.items .d)[s.d.mu]? = some (.spi bytes)) (hne : bytes ≠ []) :
    s.lines.cs = Config.csActive := by
  have hi := items_of_current hc
  rw [hi] at hm
  cases hcomp : isComposite i
  · obtain ⟨rfl, h0⟩ := noncomposite_spi hcomp hm
    simpa [execCheck, frameOpen, hne] using hck h0
  · exact h.linesDriven hr .cs _ (by rw [hi]; exact spi_item_cs hcomp hm)

/-- A micro-operation of unit D's list that starts an agent. -/
theorem DisplayInv.start {s : State} (h : DisplayInv s) (hrun : s.d.run = .running) {i : Instr}
    (hc : s.current .d = some i) (hck : s.d.mu = 0 → (execCheck i s).1 = true) {m : Micro}
    (hm : (s.items .d)[s.d.mu]? = some m) (hu : m.ActsFor .d) (hw : m.wait.isSome = true) :
    DisplayInv (perform .d m s) := by
  have hlines := h.linesDriven (by simp [hrun])
  have hinit : ∀ w, s.drv = .initializing ↔
      s.current .d = some .dispInit ∧ 0 < s.d.mu ∧ Run.waiting w ≠ .halted := by
    simp [h.initializing, hrun]
  cases m <;> simp only [Micro.wait, Micro.ActsFor, Option.isSome_none, Bool.false_eq_true,
    reduceCtorEq] at hu hw
  case spi bytes =>
    exact ⟨by simp [perform], fun _ => ⟨[], hm, rfl⟩,
      fun _ => cs_of_spi_item h (by simp [hrun]) hc hck hm, fun _ => hlines, hinit _⟩
  case sleep ms => exact ⟨h.spiIdle, h.spiWrite, h.csAsserted, fun _ => hlines, hinit _⟩
  case tick => exact ⟨h.spiIdle, h.spiWrite, h.csAsserted, fun _ => hlines, hinit _⟩

/-! ## Unit L's frame buffer and pulse channel -/

theorem FrameInv.mapSeq {s : State} (h : FrameInv s) (u : UnitId) (f : Seq → Seq) :
    FrameInv (s.mapSeq u f) := by
  obtain ⟨h1, h2, h3, h4⟩ := h
  constructor <;> simpa

theorem foldl_darken_length (h n : Nat) (ks : List Nat) (fb : List Pixel) :
    (ks.foldl (darken h n) fb).length = fb.length := by
  induction ks generalizing fb with
  | nil => rfl
  | cons k ks ih => rw [List.foldl_cons, ih, darken, List.length_set]

@[simp] theorem chaseTick_fb_length (n : Nat) (led : Led) :
    (chaseTick n led).fb.length = led.fb.length := by
  simp [chaseTick, foldl_darken_length]

/-- A tick writes a whole buffer and leaves its counter in range (R35, R224, R230). -/
theorem FrameInv.perform {s : State} (h : FrameInv s) {m : Micro} (hu : m.ActsFor .l) :
    FrameInv (perform .l m s) := by
  obtain ⟨hfb, hhead, hwheel, hsnap⟩ := h
  cases m <;> simp only [Micro.ActsFor, reduceCtorEq] at hu
  case frame => exact ⟨hfb, hhead, hwheel, hfb⟩
  case chase =>
    refine ⟨(chaseTick_fb_length ..).trans hfb, ?_, hwheel, hsnap⟩
    exact (chaseTick_h ..).trans_lt (Nat.mod_lt _ (by omega))
  case wheel =>
    refine ⟨?_, hhead, Nat.mod_lt _ (by decide), hsnap⟩
    simp [Machine.perform, wheelTick, wheelFrame]
  all_goals exact ⟨hfb, hhead, hwheel, hsnap⟩

/-! ## Sequencer steps -/

/-- A unit that raises a fault of its own or is refused before an effect (R255, R257): unit D's
driver is not initializing there. -/
theorem sideInv_of_halt {s : State} {u : UnitId} (h : s.SideInv u) (hr : (s.seq u).run = .running)
    (hdrv : u = .d → s.drv ≠ .initializing) {f : Seq → Seq} (hrun : (f (s.seq u)).run = .halted)
    (hp : (f (s.seq u)).pending = (s.seq u).pending)
    (htick : (f (s.seq u)).ticker = (s.seq u).ticker)
    (hwhy : (f (s.seq u)).fault ≠ none ∨ (f (s.seq u)).refused = true) :
    (s.mapSeq u f).SideInv u := by
  obtain ⟨hunit, hside⟩ := h
  have hrdy := hunit.ready hr
  refine ⟨hrdy.halt hrun hp htick hwhy, ?_⟩
  cases u
  · have hb := hrdy.spiIdle rfl
    exact displayInv_of_start hb (hside.spiIdle hb) (hdrv rfl) (.inl hrun)
  · exact hside.mapSeq .l f

/-- The codes that a sequencer step raises all halt the unit (R251, R256). -/
theorem sideInv_of_raise {s : State} {u : UnitId} (h : s.SideInv u)
    (hr : (s.seq u).run = .running) (hdrv : u = .d → s.drv ≠ .initializing) {code : FaultCode}
    (hc : code.halts s.cfg = true) (info : FaultInfo) : (s.raise u code info).SideInv u := by
  refine sideInv_of_halt h hr hdrv ?_ ?_ ?_ (.inl ?_) <;> rw [raise_of_halts hc]
  · simp
  · simp
  · simp [record_fault]

theorem execCheck_halts (i : Instr) (s : State) : (execCheck i s).2.1.halts s.cfg = true := by
  cases i <;> rfl

/-- The driver is not initializing where no DISP_INIT is under way (R140). -/
theorem drv_of_not_inside {s : State} {u : UnitId} (h : s.SideInv u)
    (hc : s.current u = none ∨ (s.seq u).mu = 0) : u = .d → s.drv ≠ .initializing := by
  rintro rfl hd
  obtain ⟨hi, hmu, -⟩ := h.2.initializing.mp hd
  rcases hc with hc | hc
  · simp [hc] at hi
  · exact absurd hc (Nat.ne_of_gt hmu)

/-- A sequencer step of a micro-operation. -/
theorem sideInv_itemStep {s : State} {u : UnitId} (h : s.SideInv u)
    (hr : (s.seq u).run = .running) {i : Instr} (hact : s.actor = u) (hc : s.current u = some i)
    (hck : (s.seq u).mu = 0 → (execCheck i s).1 = true) {m : Micro}
    (hm : (s.items u)[(s.seq u).mu]? = some m) (hma : m.ActsFor u) :
    (itemStep u (s.items u).length m s).SideInv u := by
  obtain ⟨hunit, hside⟩ := h
  have hrdy := hunit.ready hr
  cases hw : m.wait with
  | some w =>
    have hws : m.wait.isSome = true := by simp [hw]
    rw [itemStep, if_pos hws]
    refine ⟨hrdy.start hm hma hws, ?_⟩
    cases u
    · exact hside.start hr hc hck hm hma hws
    · exact hside.perform hma
  | none =>
    rw [itemStep, if_neg (by simp [hw])]
    have hperiod : ∀ period, m = .ticker period → 1 ≤ period.toNat := by
      rintro period rfl
      rw [items_of_current hc] at hm
      obtain ⟨rfl, h0⟩ := ticker_item hm
      have : period.toNat ≠ 0 := by simpa [execCheck] using hck h0
      omega
    refine ⟨?_, ?_⟩
    · rw [← perform_items u u m s]
      exact (hrdy.perform hma hw hperiod).finish
    · cases u
      · exact hside.immediate hrdy hc hm hma hw
      · exact (hside.perform hma).mapSeq ..

theorem sideInv_unitStep {s t : State} {u : UnitId} (h : s.SideInv u)
    (hr : (s.seq u).run = .running) (hact : s.actor = u) (ht : s.unitStep u = .next t) :
    t.SideInv u := by
  rcases unitStep_next ht with ⟨i, hc, hi⟩ | ⟨op, ho, hd, rfl⟩ | ⟨op, ho, hd, rfl⟩
  · rcases exec_next_of_current hact hc hi with ⟨h0, -, rfl⟩ | ⟨hck, m, hm, hma, rfl⟩
    · exact sideInv_of_raise h hr (drv_of_not_inside h (.inr h0)) (execCheck_halts i s) _
    · exact sideInv_itemStep h hr hact hc hck hm hma
  · have hnone : s.current u = none := by simp [State.current, ho, hd]
    exact sideInv_of_raise h hr (drv_of_not_inside h (.inl hnone)) rfl _
  · have hnone : s.current u = none := by simp [State.current, ho, hd]
    exact sideInv_of_halt h hr (drv_of_not_inside h (.inl hnone)) rfl rfl rfl (.inr rfl)

/-! ## Channel and timer steps -/

/-- A unit that waits for a channel has no pending wait (R36, R38). -/
theorem pending_of_waiting {s : State} {u : UnitId} (h : UnitInv s u) {w : Wait}
    (hw : (s.seq u).run = .waiting w) (hs : w ≠ .sleepDone) (ht : w ≠ .tickDone) :
    (s.seq u).pending = none := by
  by_contra hp
  have := (pending_isSome_iff h).mp (Option.isSome_iff_ne_none.mpr hp)
  simp_all

/-- A sent byte leaves the rest of the write (R123). -/
theorem sideInv_spiTransmit {s : State} (h : s.SideInv .d) (hb : s.spi.busy = true) {b : Byte}
    {rest : List Byte} (hq : s.spi.q = b :: rest) : (s.spiTransmit b rest).SideInv .d := by
  obtain ⟨⟨h1, h2, h3, h4, h5, h6, h7, h8, h9, h10, h11⟩, hside⟩ := h
  refine ⟨⟨h1, h2, h3, h4, h5, h6, h7, h8, h9, h10, h11⟩, ?_⟩
  obtain ⟨sent, hitem, hlen⟩ := hside.spiWrite hb
  rw [hq, List.append_cons] at hitem
  refine ⟨fun hn => ?_, fun _ => ⟨sent ++ [b], hitem, ?_⟩, fun _ _ => ?_, hside.linesDriven,
    hside.initializing⟩
  · exact absurd (hb.symm.trans hn) (by simp)
  · exact (List.length_append ..).trans (congrArg (· + 1) hlen)
  · exact hside.csAsserted hb (by simp [hq])

/-- The completion step that ends a unit's wait: an agent is done, and the micro-operation is
finished (R30). -/
theorem sideInv_wake {s t : State} {u : UnitId} (h : s.SideInv u) {w : Wait}
    (hw : (s.seq u).run = .waiting w) (hres : Resumed u s t)
    (hd : u = .d → t.lines = s.lines ∧ t.drv = s.drv ∧ t.spi.q = [])
    (hl : u = .l → FrameInv t) : (t.mapSeq u (Seq.finish (s.items u).length)).SideInv u := by
  rw [← hres.items_eq]
  refine ⟨(h.1.ready_after hw hres).finish, ?_⟩
  cases u
  · obtain ⟨hlines, hdrv, hq⟩ := hd rfl
    exact h.2.finish h.1 hw hres hlines hdrv hq
  · exact (hl rfl).mapSeq ..

theorem sideInv_spiComplete {s : State} (h : s.SideInv .d) (hb : s.spi.busy = true)
    (hq : s.spi.q = []) : s.spiComplete.SideInv .d := by
  have hw : s.d.run = .waiting .spiDone := h.1.spiWait.mpr ⟨rfl, hb⟩
  have hno : s.d.pending = none := pending_of_waiting h.1 hw (by simp) (by simp)
  rw [spiComplete_eq]
  exact sideInv_wake (t := { s with
      spi := { s.spi with busy := false }
      d := { s.d.emit (.spiEnd s.spi.sent .ok) with run := .running } }) h hw
    ⟨rfl, rfl, rfl, rfl, rfl, rfl, rfl, hno, fun _ => rfl, by simp⟩ (fun _ => ⟨rfl, rfl, hq⟩)
    (by simp)

/-- A transmit fault takes unit D to the start of an operation or halts it, and DISP_INIT's fault
path leaves the driver uninitialized (R125, R127, R146). -/
theorem sideInv_spiFail {s : State} (h : s.SideInv .d) (hb : s.spi.busy = true) :
    s.spiFail.SideInv .d := by
  have hw : s.d.run = .waiting .spiDone := h.1.spiWait.mpr ⟨rfl, hb⟩
  have hno : s.d.pending = none := pending_of_waiting h.1 hw (by simp) (by simp)
  rw [spiFail_eq]
  have hend : ∀ t, Resumed .d s t → t.spi.q = [] → t.drv ≠ .initializing →
      (t.raise .d .transmitFault (.transfer s.d.mu s.spi.sent)).SideInv .d := by
    intro t hres hq hdrv
    refine ⟨(h.1.ready_after hw hres).raise (by simp) _, ?_⟩
    refine displayInv_of_start (hres.spiIdle rfl) hq hdrv ?_
    rcases raise_cases t.cfg .d (code := .transmitFault) (by simp)
      (.transfer s.d.mu s.spi.sent) t.d with e | e
    · exact .inl (congrArg Seq.run e)
    · exact .inr ((congrArg Seq.mu e).trans (complete_mu ..))
  split
  · refine hend _ ⟨rfl, rfl, rfl, rfl, rfl, rfl, rfl, hno, fun _ => rfl, by simp⟩ rfl ?_
    show s.drv.afterFault ≠ .initializing
    cases s.drv <;> simp [Driver.afterFault]
  · rename_i hcomp
    refine hend _ ⟨rfl, rfl, rfl, rfl, rfl, rfl, rfl, hno, fun _ => rfl, by simp⟩ rfl ?_
    intro hd
    obtain ⟨hc, -⟩ := h.2.initializing.mp hd
    simp [hc, isComposite] at hcomp

theorem sideInv_spiStep {s : State} (h : s.SideInv .d) (hb : s.spi.busy = true) :
    s.spiStep.SideInv .d := by
  rcases spiStep_cases s with ⟨_, e⟩ | ⟨_, b, rest, hq, e⟩ | ⟨_, hq, e⟩ <;> rw [e]
  · exact sideInv_spiFail h hb
  · exact sideInv_spiTransmit h hb hq
  · exact sideInv_spiComplete h hb hq

theorem noteFrame_keeps (r : FrameResult) (led : Led) : (led.noteFrame r).fb = led.fb ∧
    (led.noteFrame r).h = led.h ∧ (led.noteFrame r).j = led.j := by
  cases r <;> exact ⟨rfl, rfl, rfl⟩

theorem sideInv_pulseStep {s : State} (h : s.SideInv .l) (hb : s.pulse.busy = true) :
    s.pulseStep.SideInv .l := by
  have hw : s.l.run = .waiting .frameDone := h.1.frameWait.mpr ⟨rfl, hb⟩
  have hno : s.l.pending = none := pending_of_waiting h.1 hw (by simp) (by simp)
  obtain ⟨hfb, hh, hj⟩ := noteFrame_keeps (frameResult s.cfg s.draw) s.led
  rw [pulseStep_wakes]
  exact sideInv_wake (t := { s with
      pulse := ⟨false, []⟩
      led := s.led.noteFrame (frameResult s.cfg s.draw)
      l := { s.l with
        trace := s.l.trace ++ frameEvents (frameResult s.cfg s.draw) s.draw.frameSent s.pulse.snap
        run := .running } }) h hw
    ⟨rfl, rfl, rfl, rfl, rfl, rfl, rfl, hno, by simp, fun _ => rfl⟩ (by simp)
    fun _ => ⟨hfb ▸ h.2.fbLength, hh ▸ h.2.head, hj ▸ h.2.wheel, rfl⟩

theorem resumed_ended {s : State} {u : UnitId} (p : Pending) (hspi : u = .d → s.spi.busy = false)
    (hpulse : u = .l → s.pulse.busy = false) :
    Resumed u s (s.mapSeq u fun q => { q.ended p with run := .running }) := by
  cases u <;> cases p <;> exact ⟨rfl, rfl, rfl, rfl, rfl, rfl, rfl, rfl, hspi, hpulse⟩

theorem sideInv_timerStep {s : State} {u : UnitId} (h : s.SideInv u) :
    (s.timerStep u).SideInv u := by
  cases hp : (s.seq u).pending with
  | none => rwa [timerStep_of_none hp]
  | some p =>
    obtain ⟨w, hw, hspi, hframe⟩ : ∃ w, (s.seq u).run = .waiting w ∧ w ≠ .spiDone ∧
        w ≠ .frameDone := by
      rcases (pending_isSome_iff h.1).mp (by simp [hp]) with hw | hw <;>
        exact ⟨_, hw, by simp, by simp⟩
    have hd : u = .d → s.spi.busy = false := by
      rintro rfl
      exact spi_idle_of_not_waiting h.1 fun hr => hspi (Run.waiting.inj (hw.symm.trans hr))
    have hl : u = .l → s.pulse.busy = false := by
      rintro rfl
      exact pulse_idle_of_not_waiting h.1 fun hr => hframe (Run.waiting.inj (hw.symm.trans hr))
    have hwake := sideInv_wake h hw (resumed_ended p hd hl)
      (by rintro rfl; exact ⟨rfl, rfl, h.2.spiIdle (hd rfl)⟩) (by rintro rfl; exact h.2.mapSeq ..)
    rw [timerStep_eq hp]
    cases u <;> exact hwake

/-! ## Steps -/

theorem enabled_withAgent (s : State) (a b : Agent) :
    (s.withAgent a).enabled b = s.enabled b := by cases b <;> simp [State.enabled]

/-- An agent with an enabled step keeps the invariant of the side it acts for. -/
theorem sideInv_agentStep {s t : State} {a : Agent} (h : s.SideInv a.owner)
    (he : s.enabled a = true) (hact : s.actor = a.owner) (ht : s.agentStep a = .next t) :
    t.SideInv a.owner := by
  cases a with
  | unit u => exact sideInv_unitStep h (beq_iff_eq.mp he) hact ht
  | spi => exact Host.Outcome.next.inj ht ▸ sideInv_spiStep h he
  | pulse => exact Host.Outcome.next.inj ht ▸ sideInv_pulseStep h he
  | timer u => exact Host.Outcome.next.inj ht ▸ sideInv_timerStep h

/-- Settles O46: the side of the unit for which the agent moves keeps its invariant, and the other
side is as it was. -/
theorem stepKeepsTheInvariant : Obligations.StepKeepsTheInvariant := by
  intro s t h hst
  obtain ⟨hcfg, hside⟩ := inv_iff_sides.mp h
  obtain ⟨a, r, hm, hr, rfl⟩ := step_cases hst
  have hact := withAgent_actor s a
  have hother := agentStep_otherSide hact hr
  have hsides : ∀ u, (s.withAgent a).SideInv u :=
    fun u => sideInv_sameSide (sameSide_withAgent u s a) (hside u)
  refine inv_iff_sides.mpr ⟨?_, fun u => sideInv_sameSide (sameSide_nextDraw u r) ?_⟩
  · rw [nextDraw_cfg, hother.cfg_eq]
    exact hcfg
  · rcases eq_or_ne u a.owner with rfl | hu
    · have he := (enabled_withAgent s a a).trans (mover_enabled hm)
      exact sideInv_agentStep (hsides _) he hact hr
    · rw [eq_otherUnit_of_ne hu]
      exact sideInv_sameSide hother (hsides _)

end Sys2Proof.Machine
end

section
/-! Runs from a state of the invariant: a step exists until the state is final (R43), the other
unit's steps do not matter (R44, R71), and in a fair run every wait ends (R46). -/

namespace Sys2Proof.Machine

/-! ## Progress -/

theorem itemsOf_pos (cfg : Config) (i : Instr) : 0 < (itemsOf cfg i).length := by
  cases i <;> simp [itemsOf, initItems, commandItems, dataItems]

/-- A running unit is at a micro-operation of its operation's list (R28, R30). -/
theorem running_item {s : State} {u : UnitId} (h : UnitInv s u) (hr : (s.seq u).run = .running)
    {i : Instr} (hc : s.current u = some i) : ∃ m, (s.items u)[(s.seq u).mu]? = some m := by
  have hlt : (s.seq u).mu < (s.items u).length := by
    rcases Nat.eq_zero_or_pos (s.seq u).mu with h0 | hpos
    · rw [h0, items_of_current hc]
      exact itemsOf_pos s.cfg i
    · exact h.insideList hr hpos
  exact ⟨_, List.getElem?_eq_getElem hlt⟩

/-- Every operation of a running unit answers a next state, whatever its check says. -/
theorem exec_progress {s : State} {u : UnitId} (h : UnitInv s u) (hr : (s.seq u).run = .running)
    (hact : s.actor = u) {i : Instr} (hc : s.current u = some i) : ∃ t, exec i s = .next t := by
  obtain ⟨m, hm⟩ := running_item h hr hc
  have hu := execUnit_of_allows (current_allows hc) hact
  by_cases hfail : (s.seq u).mu = 0 ∧ (execCheck i s).1 = false
  · exact ⟨_, exec_of_check_fails (by rw [hu]; exact hfail.1) hfail.2⟩
  · refine ⟨_, exec_of_item (m := m) ?_ ?_⟩ <;> rw [hu]
    · intro h0
      by_contra hf
      exact hfail ⟨h0, by simpa using hf⟩
    · rw [← items_of_current hc]
      exact hm

theorem unitStep_progress {s : State} {u : UnitId} (h : UnitInv s u)
    (hr : (s.seq u).run = .running) (hact : s.actor = u) : ∃ t, s.unitStep u = .next t := by
  have hpc := h.inProgram (by simp [Seq.stopped, hr])
  have hop : (s.seq u).op? = some (s.seq u).prog.ops[(s.seq u).pc] := List.getElem?_eq_getElem hpc
  cases hd : ((s.seq u).prog.ops[(s.seq u).pc]).decode u with
  | ok i =>
    rw [unitStep_of_ok hop hd]
    exact exec_progress h hr hact (current_eq_some.mpr ⟨_, hop, hd⟩)
  | illegalOp => exact ⟨_, by simp only [State.unitStep, hop, hd]; rfl⟩
  | payloadLength => exact ⟨_, by simp only [State.unitStep, hop, hd]; rfl⟩

/-- The agent that moves takes its step. -/
theorem step_progress {s : State} (h : s.Inv) {a : Agent} (hm : s.mover = some a) :
    ∃ t, step s = .next t := by
  have hstep : ∃ r, (s.withAgent a).agentStep a = .next r := by
    cases a with
    | unit u =>
      refine unitStep_progress (unitInv_sameSide (sameSide_withAgent u s _) (h.unit u)) ?_ rfl
      rw [withAgent_seq]
      exact beq_iff_eq.mp (mover_enabled hm)
    | spi => exact ⟨_, rfl⟩
    | pulse => exact ⟨_, rfl⟩
    | timer u => exact ⟨_, rfl⟩
  obtain ⟨r, hr⟩ := hstep
  exact ⟨_, step_of_agentStep hm hr⟩

/-- A state is final exactly where no agent has an enabled step (R25, R43). -/
theorem isFinal_iff_mover {s : State} (h : s.Inv) : s.IsFinal ↔ s.mover = none := by
  rw [mover_none]
  constructor
  · rintro ⟨hstop, -⟩ a
    exact (oneAgentPerUnit s a.owner h).2.1 (hstop _) a rfl
  · intro hno
    refine ⟨fun u => ?_, hno .spi, hno .pulse,
      fun u => by simpa [State.enabled] using hno (.timer u)⟩
    by_contra hns
    obtain ⟨a, -, ha⟩ := (oneAgentPerUnit s u h).1 hns
    simp [hno a] at ha

/-- Settles O47: a final state has no agent to move, and in any other the agent that moves has a
step. -/
theorem progressOrFinal : Obligations.ProgressOrFinal := by
  intro s h
  cases hm : s.mover with
  | none => exact .inl ⟨(isFinal_iff_mover h).mpr hm, by simp [step, State.move, hm]⟩
  | some a =>
    refine .inr ⟨fun hf => ?_, step_progress h hm⟩
    rw [(isFinal_iff_mover h).mp hf] at hm
    cases hm

/-! ## Interleaving -/

/-- Steps of the other unit alone leave the side. -/
theorem UnitMoves.nil_sameSide {u : UnitId} {s t : State} (h : UnitMoves u [] s t) :
    s.SameSide u t := by
  generalize hcs : ([] : List (Bool × Level × Bool × Bool)) = cs at h
  induction h with
  | refl s => exact .refl u s
  | own _ _ _ _ _ => cases hcs
  | other hm ho hst _ ih => exact (step_otherSide hm ho hst).trans (ih hcs)

/-- The first step of the unit's own in a run: the other unit's steps before it leave the side. -/
theorem UnitMoves.cons_inv {u : UnitId} {c : Bool × Level × Bool × Bool}
    {cs : List (Bool × Level × Bool × Bool)} {s t : State} (h : UnitMoves u (c :: cs) s t)
    (hi : s.Inv) : ∃ p r a, s.SameSide u p ∧ p.Inv ∧ p.mover = some a ∧ a.owner = u ∧
      p.draw.outcomes = c ∧ Steps p r ∧ UnitMoves u cs r t := by
  generalize hcs : c :: cs = ds at h
  induction h with
  | refl s => cases hcs
  | own hm ho hst hr _ =>
    obtain ⟨rfl, rfl⟩ := List.cons.inj hcs
    exact ⟨_, _, _, .refl .., hi, hm, ho, rfl, hst, hr⟩
  | other hm ho hst _ ih =>
    obtain ⟨p, r, a, hside, hrest⟩ := ih (stepKeepsTheInvariant _ _ hi hst) hcs
    exact ⟨p, r, a, (step_otherSide hm ho hst).trans hside, hrest⟩

/-- On the same side the same agent of the unit moves. -/
theorem mover_sameSide {u : UnitId} {s t : State} (hs : s.Inv) (ht : t.Inv) (h : s.SameSide u t)
    {a b : Agent} (ha : s.mover = some a) (hb : t.mover = some b) (hao : a.owner = u)
    (hbo : b.owner = u) : b = a := by
  have hra := agent_of_mover hs ha
  have hrb := agent_of_mover ht hb
  rw [hao] at hra
  rw [hbo, h.seq_eq, hra] at hrb
  exact (Option.some.inj hrb).symm

/-- Settles O50, by induction on one of the two runs: a step of the other unit leaves the side, and
a step of the unit's own meets the first own step of the other run. -/
theorem interleavingDoesNotMatter : Obligations.InterleavingDoesNotMatter := by
  intro u outcomes s s' t t' hi hi' hside h h'
  induction h generalizing s' with
  | refl s => exact hside.trans h'.nil_sameSide
  | own hm ho hst _ ih =>
    obtain ⟨p, r, b, hp, hpi, hpm, hpo, hpd, hpr, hrest⟩ := h'.cons_inv hi'
    have hsp := hside.trans hp
    obtain rfl := mover_sameSide hi hpi hsp hm hpm ho hpo
    subst ho
    exact ih r (stepKeepsTheInvariant _ _ hi hst) (stepKeepsTheInvariant _ _ hpi hpr)
      (step_sameSide hm hpm hpd hsp hst hpr) hrest
  | other hm ho hst _ ih =>
    exact ih s' (stepKeepsTheInvariant _ _ hi hst) hi'
      ((step_otherSide hm ho hst).symm.trans hside) h'

/-! ## Fair runs -/

theorem IsRun.inv {r : Nat → State} (hr : IsRun r) (h0 : (r 0).Inv) (n : Nat) : (r n).Inv := by
  induction n with
  | zero => exact h0
  | succ n ih => exact stepKeepsTheInvariant _ _ ih (hr n)

/-- A step of a unit that waits: its agent moves, or the unit's side stays as it is. -/
theorem step_while_waiting {s t : State} {u : UnitId} {a : Agent} (h : s.Inv)
    (ha : (s.seq u).run.agent u = some a) (hst : step s = .next t) :
    s.mover = some a ∨ s.SameSide u t := by
  obtain ⟨b, _, hm, -, -⟩ := step_cases hst
  by_cases ho : b.owner = u
  · subst ho
    have := agent_of_mover h hm
    rw [ha] at this
    exact .inl (hm.trans this.symm)
  · exact .inr (step_otherSide hm ho hst)

theorem wake_run (q : Seq) (n : Nat) : (q.wake n).run = .running ∨ (q.wake n).run = .done :=
  finish_run { q with run := .running } n

/-- A unit that an agent's completion step has woken does not wait. -/
theorem wake_run_ne (q : Seq) (n : Nat) (w : Wait) : (q.wake n).run ≠ .waiting w := by
  rcases wake_run q n with h | h <;> simp [h]

/-- A unit that has raised a transmit fault does not wait (R256). -/
theorem raise_transmit_run_ne {q : Seq} (hq : q.run = .running) (cfg : Config) (u : UnitId)
    (info : FaultInfo) (w : Wait) : (q.raise cfg u .transmitFault info).run ≠ .waiting w := by
  rcases raise_cases cfg u (code := .transmitFault) (by simp) info q with e | e <;> rw [e]
  · simp
  · rcases complete_run (q.record u .transmitFault info) .transmitFault with h | h <;> simp [h, hq]

/-- The SPI channel's step ends unit D's wait or leaves it one byte fewer to send (R123 to R125). -/
theorem spiStep_ends_or_sends (s : State) :
    (∀ w, s.spiStep.d.run ≠ .waiting w) ∨ s.spiStep.spi.q.length < s.spi.q.length := by
  rcases spiStep_cases s with ⟨_, e⟩ | ⟨_, b, rest, hq, e⟩ | ⟨_, _, e⟩ <;> rw [e]
  · left
    rw [spiFail_eq]
    split <;> exact raise_transmit_run_ne rfl _ _ _
  · right
    rw [hq]
    exact Nat.lt_succ_self _
  · left
    rw [spiComplete_eq]
    exact wake_run_ne _ _

/-- The bytes that the channel of unit `u` has left to send; unit L's channel sends none. -/
def State.bytesLeft (u : UnitId) (s : State) : Nat :=
  match u with
  | .d => s.spi.q.length
  | .l => 0

theorem State.SameSide.bytesLeft_eq {u : UnitId} {s t : State} (h : s.SameSide u t) :
    t.bytesLeft u = s.bytesLeft u := by
  cases u
  · simp [State.bytesLeft, sameSide_d.mp h]
  · rfl

/-- The step of the agent that a unit waits for ends the wait or leaves one byte fewer to send. -/
theorem agentStep_ends_or_sends {s r : State} {a : Agent} {w : Wait}
    (hw : (s.seq a.owner).run = .waiting w) (ha : (s.seq a.owner).run.agent a.owner = some a)
    (he : s.enabled a = true) (hr : s.agentStep a = .next r) :
    (r.seq a.owner).run ≠ .waiting w ∨ r.bytesLeft a.owner < s.bytesLeft a.owner := by
  cases a with
  | unit u => simp [(agent_eq_unit.mp ha).2] at hw
  | spi =>
    obtain rfl := Host.Outcome.next.inj hr
    exact (spiStep_ends_or_sends s).imp (fun h => h w) id
  | pulse =>
    obtain rfl := Host.Outcome.next.inj hr
    rw [pulseStep_wakes]
    exact .inl (wake_run_ne _ _ w)
  | timer u =>
    obtain rfl := Host.Outcome.next.inj hr
    obtain ⟨p, hp⟩ := Option.isSome_iff_exists.mp he
    left
    show ((s.timerStep u).seq u).run ≠ .waiting w
    rw [timerStep_eq hp, mapSeq_seq]
    exact wake_run_ne _ _ w

/-- While a unit goes on waiting, its agent's steps each send a byte and all others send none. -/
theorem bytesLeft_while_waiting {s t : State} {u : UnitId} {a : Agent} {w : Wait} (h : s.Inv)
    (ha : (Run.waiting w).agent u = some a) (hs : (s.seq u).run = .waiting w)
    (ht : (t.seq u).run = .waiting w) (hst : step s = .next t) :
    t.bytesLeft u ≤ s.bytesLeft u ∧ (s.mover = some a → t.bytesLeft u < s.bytesLeft u) := by
  rw [← hs] at ha
  obtain ⟨b, r, hm, hr, rfl⟩ := step_cases hst
  by_cases hba : b = a
  · subst hba
    obtain rfl := owner_of_agent (h.unit u) ha
    have hside := sameSide_withAgent b.owner s b
    have hx := agentStep_ends_or_sends (w := w) (by simpa using hs) (by simpa using ha)
      ((enabled_withAgent s b b).trans (mover_enabled hm)) hr
    rw [hside.bytesLeft_eq, ← (sameSide_nextDraw b.owner r).bytesLeft_eq, ← nextDraw_seq] at hx
    have hlt := hx.resolve_left (not_not_intro ht)
    exact ⟨hlt.le, fun _ => hlt⟩
  · have hne : s.mover ≠ some a := fun hma => hba (Option.some.inj (hm.symm.trans hma))
    have hside := (step_while_waiting h ha hst).resolve_left hne
    exact ⟨hside.bytesLeft_eq.le, fun hma => absurd hma hne⟩

/-- Settles O58: were the wait endless, its agent would move again and again, and each of its steps
would leave one byte fewer to send. -/
theorem fairRunsEndEveryWait : Obligations.FairRunsEndEveryWait := by
  intro r hr hfair h0 n u w hw
  have hinv := hr.inv h0
  induction hk : (r n).bytesLeft u using Nat.strong_induction_on generalizing n with
  | _ k ih =>
    by_contra hend
    push Not at hend
    have hwait : ∀ m, n ≤ m → ((r m).seq u).run = .waiting w := fun m hm =>
      (eq_or_lt_of_le hm).elim (fun e => e ▸ hw) (hend m)
    obtain ⟨a, ha⟩ : ∃ a, (Run.waiting w).agent u = some a := by cases w <;> exact ⟨_, rfl⟩
    have hstep := fun m hm => bytesLeft_while_waiting (hinv m) ha (hwait m hm)
      (hwait (m + 1) (by omega)) (hr m)
    have hle : ∀ m, n ≤ m → (r m).bytesLeft u ≤ (r n).bytesLeft u := fun m hm => by
      induction m, hm using Nat.le_induction with
      | base => exact le_rfl
      | succ m hm ihm => exact (hstep m hm).1.trans ihm
    obtain ⟨m, hm, hmove⟩ := hfair a n fun m hm =>
      enabled_of_agent ((hinv m).unit u) (by rw [hwait m hm]; exact ha)
    have hlt := (hstep m hm).2 hmove
    obtain ⟨m', hm', hstop⟩ := ih _ (hk ▸ hlt.trans_le (hle m hm)) (m + 1)
      (hwait (m + 1) (by omega)) rfl
    exact hstop (hwait m' (by omega))

end Sys2Proof.Machine
end

section
/-! The fault state is sticky (R41): each operation on a sequencer keeps the record, the refusal
mark and the trace so far, so every step does. -/

namespace Sys2Proof.Machine

/-- `q'` has the fault record and the refusal mark of `q`, where they are set, and continues its
trace. -/
structure Seq.Continues (q q' : Seq) : Prop where
  fault : ∀ r, q.fault = some r → q'.fault = some r
  refused : q.refused = true → q'.refused = true
  trace : ∃ es, q'.trace = q.trace ++ es

theorem Seq.Continues.of_eq {q q' : Seq} (hf : q'.fault = q.fault) (hr : q'.refused = q.refused)
    (ht : q'.trace = q.trace) : q.Continues q' :=
  ⟨fun _ h => hf.trans h, fun h => hr.trans h, [], by simp [ht]⟩

theorem Seq.Continues.trans {q q' q'' : Seq} (h : q.Continues q') (h' : q'.Continues q'') :
    q.Continues q'' := by
  obtain ⟨es, he⟩ := h.trace
  obtain ⟨es', he'⟩ := h'.trace
  exact ⟨fun r hr => h'.fault r (h.fault r hr), fun hr => h'.refused (h.refused hr), es ++ es',
    by rw [he', he, List.append_assoc]⟩

theorem continues_append (q : Seq) (es : List Event) :
    q.Continues { q with trace := q.trace ++ es } := ⟨fun _ h => h, fun h => h, es, rfl⟩

theorem continues_refuse (q : Seq) : q.Continues q.refuse :=
  ⟨fun _ h => h, fun _ => rfl, [], by simp⟩

theorem continues_finish (q : Seq) (n : Nat) : q.Continues (q.finish n) :=
  .of_eq (by simp) (by simp) (by simp)

theorem continues_wake (q : Seq) (n : Nat) : q.Continues (q.wake n) :=
  .of_eq (by simp) (by simp) (by simp)

theorem continues_ended (p : Pending) (q : Seq) : q.Continues (q.ended p) := by
  cases p <;> exact ⟨fun _ h => h, fun h => h, [_], rfl⟩

/-- A raised fault keeps a record that is there (R41, R250). -/
theorem continues_raise (cfg : Config) (u : UnitId) (code : FaultCode) (info : FaultInfo)
    (q : Seq) : q.Continues (q.raise cfg u code info) := by
  refine ⟨fun r hr => ?_, fun hr => by simpa using hr, [], by simp⟩
  have hrec : (q.record u code info).fault = some r := by rw [record_fault, hr]; rfl
  by_cases hc : code = .pulseFault
  · subst hc
    simpa [Seq.raise, FaultCode.halts] using hr
  · rcases raise_cases cfg u hc info q with e | e <;> simp [e, hrec]

/-! ## Steps -/

/-- Both units' sequencers continue from `s` to `t`, and a set `pulse_fault` stays set. -/
structure State.Continues (s t : State) : Prop where
  pulseFault : s.led.pulseFault = true → t.led.pulseFault = true
  seq : ∀ u, (s.seq u).Continues (t.seq u)

theorem State.Continues.of_seqs {s t : State} (hl : t.led = s.led) (hd : s.d.Continues t.d)
    (hll : s.l.Continues t.l) : s.Continues t :=
  ⟨fun h => hl ▸ h, fun u => by cases u <;> assumption⟩

theorem State.Continues.refl (s : State) : s.Continues s :=
  ⟨id, fun _ => .of_eq rfl rfl rfl⟩

theorem State.Continues.trans {s t r : State} (h : s.Continues t) (h' : t.Continues r) :
    s.Continues r :=
  ⟨fun hp => h'.pulseFault (h.pulseFault hp), fun u => (h.seq u).trans (h'.seq u)⟩

theorem continues_mapSeq {u : UnitId} {f : Seq → Seq} {s : State}
    (hf : (s.seq u).Continues (f (s.seq u))) : s.Continues (s.mapSeq u f) := by
  cases u
  · exact .of_seqs rfl hf (.of_eq rfl rfl rfl)
  · exact .of_seqs rfl (.of_eq rfl rfl rfl) hf

theorem continues_perform (u : UnitId) (m : Micro) (s : State) : s.Continues (perform u m s) := by
  cases m
  case line line v => exact .of_seqs rfl (continues_append _ [_]) (.of_eq rfl rfl rfl)
  case sleep ms =>
    exact continues_mapSeq (f := fun q => (q.setPending (some (.sleep ms))).await .sleepDone)
      (.of_eq rfl rfl rfl)
  case tick =>
    exact continues_mapSeq (f := fun q => (q.setPending (some .tick)).await .tickDone)
      (.of_eq rfl rfl rfl)
  case ticker period => exact continues_mapSeq (f := Seq.armTicker period) (.of_eq rfl rfl rfl)
  all_goals exact ⟨id, fun v => by cases v <;> exact .of_eq rfl rfl rfl⟩

theorem continues_itemStep (u : UnitId) (n : Nat) (m : Micro) (s : State) :
    s.Continues (itemStep u n m s) := by
  unfold itemStep
  split
  · exact continues_perform u m s
  · exact (continues_perform u m s).trans (continues_mapSeq (continues_finish _ n))

theorem continues_unitStep {s t : State} {u : UnitId} (h : s.unitStep u = .next t) :
    s.Continues t := by
  rcases unitStep_next h with ⟨i, _, hi⟩ | ⟨op, _, _, rfl⟩ | ⟨op, _, _, rfl⟩
  · rcases exec_next hi with ⟨_, _, rfl⟩ | ⟨_, m, _, rfl⟩
    · exact continues_mapSeq (continues_raise ..)
    · exact continues_itemStep ..
  · exact continues_mapSeq (continues_raise ..)
  · exact continues_mapSeq (continues_refuse _)

theorem continues_spiStep (s : State) : s.Continues s.spiStep := by
  rcases spiStep_cases s with ⟨_, e⟩ | ⟨_, b, rest, _, e⟩ | ⟨_, _, e⟩ <;> rw [e]
  · rw [spiFail_eq]
    have hrel : s.Continues s.spiReleased :=
      .of_seqs rfl ⟨fun _ h => h, fun h => h, [_], rfl⟩ (.of_eq rfl rfl rfl)
    have hpath : s.spiReleased.Continues s.spiReleased.faultPath :=
      .of_seqs rfl (continues_append _ [_]) (.of_eq rfl rfl rfl)
    split
    · exact (hrel.trans hpath).trans (continues_mapSeq (continues_raise ..))
    · exact hrel.trans (continues_mapSeq (continues_raise ..))
  · exact .of_seqs rfl (continues_append _ [_]) (.of_eq rfl rfl rfl)
  · rw [spiComplete_eq]
    exact .of_seqs rfl ((continues_append _ [_]).trans (continues_wake _ _)) (.of_eq rfl rfl rfl)

/-- A frame's result sets `pulse_fault` or leaves it (R173). -/
theorem noteFrame_pulseFault (r : FrameResult) (led : Led) :
    (led.noteFrame r).pulseFault = (led.pulseFault || r == .pulseFault) := by
  cases r <;> simp [Led.noteFrame]

theorem continues_pulseStep (s : State) : s.Continues s.pulseStep := by
  rw [pulseStep_wakes]
  refine ⟨fun h => ?_, fun u => ?_⟩
  · show (s.led.noteFrame _).pulseFault = true
    rw [noteFrame_pulseFault, h, Bool.true_or]
  · cases u
    · exact .of_eq rfl rfl rfl
    · exact (continues_append s.l _).trans (continues_wake _ _)

theorem continues_timerStep (s : State) (u : UnitId) : s.Continues (s.timerStep u) := by
  cases hp : (s.seq u).pending with
  | none => rw [timerStep_of_none hp]; exact .refl s
  | some p =>
    rw [timerStep_eq hp]
    exact continues_mapSeq ((continues_ended p _).trans (continues_wake _ _))

theorem continues_agentStep {s t : State} {a : Agent} (h : s.agentStep a = .next t) :
    s.Continues t := by
  cases a with
  | unit u => exact continues_unitStep h
  | spi => exact Host.Outcome.next.inj h ▸ continues_spiStep s
  | pulse => exact Host.Outcome.next.inj h ▸ continues_pulseStep s
  | timer u => exact Host.Outcome.next.inj h ▸ continues_timerStep s u

theorem continues_step {s t : State} (h : step s = .next t) : s.Continues t := by
  obtain ⟨a, r, _, hr, rfl⟩ := step_cases h
  obtain ⟨hp, hq⟩ := continues_agentStep hr
  exact ⟨by simpa using hp, fun u => by simpa using hq u⟩

/-- Settles O52: each operation that writes the fault state sets it, and every step continues it. -/
theorem faultStateIsSticky : Obligations.FaultStateIsSticky := by
  refine ⟨fun s u code info hc => ?_, fun s u => by simp [State.refuse], fun s hm hf => ?_,
    fun s t hst => ?_, fun cfg progD progL dc => ⟨rfl, fun u => by cases u <;> exact ⟨rfl, rfl⟩⟩⟩
  · rw [State.raise, mapSeq_seq]
    rcases raise_cases s.cfg u hc info (s.seq u) with e | e <;> simp [e, record_fault]
  · refine ⟨_, step_of_agentStep hm rfl, ?_⟩
    have hf' : frameResult (s.withAgent .pulse).cfg (s.withAgent .pulse).draw = .pulseFault := hf
    rw [nextDraw_led, pulseStep_wakes, hf']
    rfl
  · obtain ⟨hp, hq⟩ := continues_step hst
    exact ⟨hp, fun u => ⟨(hq u).fault, (hq u).refused, (hq u).trace⟩⟩

end Sys2Proof.Machine
end

section
/-! Which agent moves and what its step runs (R20, R28), advancing (R29), the reset state (R42), and
the display operations' lists (R141, R143, R150). -/

namespace Sys2Proof.Machine

/-! ## Steps -/

theorem mover_withAgent {s : State} {a : Agent} (h : s.enabled a = true) :
    (s.withAgent a).mover = some a :=
  mover_of_drawn (s := s.withAgent a) ((enabled_withAgent s a a).trans h)

theorem decodeTableWord_eq_some {nbits w : Nat} {i : Instr} (h : decodeTableWord nbits w = some i) :
    (zeroPayloadOp (tableWord nbits w)).decode (unitForWord (tableWord nbits w)) = .ok i := by
  unfold decodeTableWord at h
  dsimp only at h
  split at h <;> simp_all

/-- The step of a machine that is about to run one loaded operation (log 6). -/
theorem step_loadOp {s : State} {u : UnitId} {op : Op} {i : Instr} (hd : op.decode u = .ok i) :
    step (s.loadOp u op) = afterStep (exec i (s.loadOp u op)) := by
  have hm : (s.loadOp u op).mover = some (.unit u) :=
    mover_withAgent (by simp [State.enabled])
  have hop : ((s.loadOp u op).seq u).op? = some op := by simp [State.loadOp, Seq.op?, Program.ops]
  rw [step_of_mover hm]
  exact congrArg afterStep (unitStep_of_ok (s := s.loadOp u op) hop hd)

/-- Settles O7: fetch and decode give the operation that the unit's step runs. -/
theorem stepRunsTheDecodedOperation : Obligations.StepRunsTheDecodedOperation := by
  refine ⟨fun s u op i hm ho hd => ?_, fun s hm => step_of_agentStep hm rfl,
    fun s hm => step_of_agentStep hm rfl, fun s u hm => step_of_agentStep hm rfl,
    fun s nbits w i h => step_loadOp (decodeTableWord_eq_some h)⟩
  rw [step_of_mover hm]
  refine congrArg afterStep (unitStep_of_ok (op := op) ?_ hd)
  rw [withAgent_seq, ho]

/-- Settles O8: the drawn agent moves where it has an enabled step, else another that has one. -/
theorem anyEnabledAgentMayMove : Obligations.AnyEnabledAgentMayMove := by
  refine ⟨fun s a h => mover_withAgent h, fun s a h => mover_enabled h, fun s => mover_none,
    fun s u => ⟨beq_iff_eq, Option.isSome_iff_ne_none⟩, fun s => ⟨Iff.rfl, Iff.rfl⟩,
    nextDraw_of_cons⟩

/-! ## Advancing (R29) -/

theorem ops_length (p : Program) : p.ops.length = p.prologue.length + p.body.length :=
  List.length_append

/-- The operation after the last one of a program is the first of its body, inside the program. -/
theorem complete_pc_lt (q : Seq) (st : Status) (h : q.pc < q.prog.ops.length) :
    (q.complete st).pc < q.prog.ops.length := by
  rw [ops_length] at *
  rcases advance_cases { q with mu := 0, st := st } with ⟨h1, e⟩ | ⟨_, h2, e⟩ | ⟨_, _, e⟩ <;>
    simp only [ops_length] at * <;> simp only [Seq.complete, e] <;> omega

/-- Settles O9, from the three outcomes of advancing. -/
theorem advanceFollowsTheProgram : Obligations.AdvanceFollowsTheProgram := by
  refine ⟨fun q st => ?_, fun q st h => ?_, fun p h => ?_⟩
  · rw [← ops_length]
    rcases advance_cases { q with mu := 0, st := st } with ⟨h1, e⟩ | ⟨h1, h2, e⟩ | ⟨h1, h2, e⟩ <;>
      simp_all [Seq.complete]
  · rw [← ops_length] at *
    exact complete_pc_lt q st h
  · simp [Seq.atReset, ops_length, h]

/-! ## Reset and launch -/

/-- Settles O10: each row is a field of `State.atReset`. -/
theorem resetState : Obligations.ResetState := by
  intro cfg progD progL dc s
  refine ⟨rfl, rfl, rfl, rfl, List.length_replicate, fun i hi => ?_, rfl, rfl, rfl, rfl, rfl,
    fun u => ?_⟩
  · exact List.getElem?_replicate_of_lt hi
  · cases u <;>
      exact ⟨rfl, rfl, by rw [← ops_length]; rfl, rfl, rfl, rfl, rfl, rfl, rfl, rfl⟩

/-- A unit before its first step: running, done or refused. -/
theorem unitInv_before_start {s : State} {u : UnitId} (hw : ∀ w, (s.seq u).run ≠ .waiting w)
    (hp : (s.seq u).pending = none) (hspi : s.spi.busy = false) (hpulse : s.pulse.busy = false)
    (hmu : (s.seq u).mu = 0)
    (hin : (s.seq u).run = .running → (s.seq u).pc < (s.seq u).prog.ops.length)
    (href : (s.seq u).refused = true ↔ (s.seq u).run = .halted)
    (hper : 1 ≤ (s.seq u).ticker.period.toNat) : UnitInv s u := by
  refine unitInv_of_no_wait hw hp (fun _ => hspi) (fun _ => hpulse) (fun hns => hin ?_)
    (fun _ => hmu) (fun _ h => by omega) href.mp (fun h => .inr (href.mpr h)) hper
  cases hr : (s.seq u).run <;> simp_all [Seq.stopped]

/-- A unit as reset leaves it is done where its program is empty, else at its first operation. -/
theorem atReset_run (p : Program) : (Seq.atReset p).run = .done ∨
    (Seq.atReset p).run = .running ∧ (Seq.atReset p).pc < (Seq.atReset p).prog.ops.length := by
  unfold Seq.atReset
  split
  · exact .inl rfl
  · exact .inr ⟨rfl, Nat.pos_of_ne_zero ‹_›⟩

theorem unitInv_atReset {s : State} {u : UnitId} {p : Program} (hq : s.seq u = Seq.atReset p)
    (hspi : s.spi.busy = false) (hpulse : s.pulse.busy = false) : UnitInv s u := by
  refine unitInv_before_start (fun w hw => ?_) ?_ hspi hpulse ?_ (fun hr => ?_)
    (iff_of_false ?_ fun hh => ?_) ?_ <;> rw [hq] at *
  · rcases atReset_run p with h | ⟨h, -⟩ <;> simp [h] at hw
  · rfl
  · rfl
  · rcases atReset_run p with h | ⟨-, h⟩
    · simp [h] at hr
    · exact h
  · exact Bool.false_ne_true
  · rcases atReset_run p with h | ⟨h, -⟩ <;> simp [h] at hh
  · exact Nat.le_refl 1

/-- The state before the first step of a run, its units as a launch leaves them. -/
theorem inv_before_start {s : State} (hcfg : configOk s.cfg = true) (hu : ∀ u, UnitInv s u)
    (hspi : s.spi = ⟨false, [], 0⟩) (hdrv : s.drv = .uninitialized) (hmu : s.d.mu = 0)
    (hled : s.led = ⟨List.replicate s.cfg.nPixels Pixel.black, 0, 0, 0, false⟩)
    (hpulse : s.pulse = ⟨false, []⟩) : s.Inv := by
  refine inv_iff_sides.mpr ⟨hcfg, fun u => ⟨hu u, ?_⟩⟩
  have hn : 1 ≤ s.cfg.nPixels := by simp_all [configOk]
  cases u
  · exact displayInv_of_start (by simp [hspi]) (by simp [hspi]) (by simp [hdrv]) (.inr hmu)
  · constructor <;> simp [hled, hpulse]
    omega

theorem atReset_inv {cfg : Config} (hcfg : configOk cfg = true) (progD progL : Program)
    (dc : Level) : (State.atReset cfg progD progL dc).Inv := by
  refine inv_before_start hcfg (fun u => ?_) rfl rfl rfl rfl rfl
  cases u <;> exact unitInv_atReset rfl rfl rfl

theorem reference_ok : configOk Config.reference = true := rfl

theorem refusedLaunch_inv (progD progL : Program) (dc : Level) :
    (refusedLaunch progD progL dc).Inv := by
  refine inv_before_start reference_ok (fun u => ?_) rfl rfl rfl rfl rfl
  cases u <;> exact unitInv_before_start (by simp [refusedLaunch]) rfl rfl rfl rfl
    (by simp [refusedLaunch]) (by simp [refusedLaunch]) (Nat.le_refl 1)

/-- Settles O45: a launch that is not refused starts from reset, any other halted. -/
theorem invariantAtLaunch : Obligations.InvariantAtLaunch := by
  refine ⟨atReset_inv reference_ok .., fun p progD progL dc => ?_⟩
  unfold launch
  split
  · exact refusedLaunch_inv ..
  · split
    · exact atReset_inv ‹_› ..
    · exact refusedLaunch_inv ..

/-! ## The display operations' lists -/

/-- Inside a display operation the step runs the list's micro-operation, with no check. -/
theorem exec_display_item {i : Instr} {s : State} {m : Micro} (hi : isComposite i = true)
    (hmu : 0 < s.d.mu) (hm : (itemsOf s.cfg i)[s.d.mu]? = some m) :
    exec i s = .next (itemStep .d (itemsOf s.cfg i).length m s) := by
  have hu : execUnit i s = .d := by cases i <;> simp [isComposite] at hi <;> rfl
  rw [exec_of_item (m := m) (fun h0 => ?_) (by rw [hu]; exact hm), hu]
  rw [hu] at h0
  exact absurd h0 (Nat.ne_of_gt hmu)

/-- Settles O15: inside its list a display operation's step is that of the micro-operation. -/
theorem displayOperationsRunTheirLists : Obligations.DisplayOperationsRunTheirLists := by
  refine ⟨fun cfg op p => ⟨rfl, rfl, fun h => ?_, fun h => ?_⟩, fun q n => rfl,
    fun i s hi hmu => ?_⟩
  · simp [itemsOf, initItems, resetPulseItems, h, commandItems]
  · simp [itemsOf, initItems, resetPulseItems, h, commandItems]
  · have hcomp : isComposite i = true := by
      rcases hi with rfl | ⟨op, p, rfl⟩ | ⟨p, rfl⟩ <;> rfl
    exact ⟨fun line v hm => exec_display_item hcomp hmu hm,
      fun bytes hm => exec_display_item hcomp hmu hm, fun ms hm => exec_display_item hcomp hmu hm,
      fun hm => exec_display_item hcomp hmu hm⟩

end Sys2Proof.Machine
end

section
/-! No byte leaves with CS deasserted, and no line moves while a write is in flight (R77, R290): what
each agent's step appends to unit D's trace and does to the lines. -/

namespace Sys2Proof.Machine

/-! ## The events of a sequencer step -/

/-- The events that a micro-operation's own step appends to unit D's trace: only a line write has
one (R40, R111). -/
def Micro.events : Micro → List Event
  | .line j v => [.line j v]
  | .spi _ | .sleep _ | .drv _ | .drvReady | .frame | .tick | .ticker _ | .chase | .wheel => []

@[simp] theorem perform_trace_d (u : UnitId) (m : Micro) (s : State) :
    (perform u m s).d.trace = s.d.trace ++ m.events := by
  cases m <;> cases u <;> simp [perform, Micro.events, State.startSleep, State.startTick]

/-- Changing a unit's sequencer without its trace leaves unit D's trace. -/
theorem mapSeq_trace_d {u : UnitId} {f : Seq → Seq} {s : State}
    (hf : (f (s.seq u)).trace = (s.seq u).trace) : (s.mapSeq u f).d.trace = s.d.trace := by
  cases u
  · exact hf
  · rfl

theorem itemStep_trace_d (u : UnitId) (n : Nat) (m : Micro) (s : State) :
    (itemStep u n m s).d.trace = s.d.trace ++ m.events := by
  unfold itemStep
  split
  · exact perform_trace_d u m s
  · exact (mapSeq_trace_d (finish_trace ..)).trans (perform_trace_d u m s)

theorem byte_notMem_events (m : Micro) (b : Byte) (cs dc : Level) :
    Event.byte b cs dc ∉ m.events := by cases m <;> simp [Micro.events]

/-- A sequencer sends no byte: it starts a write, and the SPI channel sends it (R30, R121). -/
theorem unitStep_appends {s t : State} {u : UnitId} (h : s.unitStep u = .next t) :
    ∃ es, t.d.trace = s.d.trace ++ es ∧ ∀ b cs dc, Event.byte b cs dc ∉ es := by
  rcases unitStep_next h with ⟨i, _, hi⟩ | ⟨op, _, _, rfl⟩ | ⟨op, _, _, rfl⟩
  · rcases exec_next hi with ⟨_, _, rfl⟩ | ⟨_, m, _, rfl⟩
    · exact ⟨[], (mapSeq_trace_d (raise_trace ..)).trans (List.append_nil _).symm, by simp⟩
    · exact ⟨m.events, itemStep_trace_d .., byte_notMem_events m⟩
  · exact ⟨[], (mapSeq_trace_d (raise_trace ..)).trans (List.append_nil _).symm, by simp⟩
  · exact ⟨[], (mapSeq_trace_d (seqRefuse_trace _)).trans (List.append_nil _).symm, by simp⟩

/-- The timer's step records the end of a sleep or a tick (R191, R197). -/
theorem timerStep_appends (s : State) :
    ∃ es, (s.timerStep .d).d.trace = s.d.trace ++ es ∧ ∀ b cs dc, Event.byte b cs dc ∉ es := by
  cases hp : s.d.pending with
  | none => exact ⟨[], by simp [timerStep_of_none (u := .d) hp], by simp⟩
  | some p =>
    rw [timerStep_eq (u := .d) hp]
    cases p with
    | sleep ms => exact ⟨[.sleep ms], by simp [Seq.ended], by simp⟩
    | tick => exact ⟨[.tick (s.d.ticker.k + 1)], by simp [Seq.ended], by simp⟩

/-! ## What a step may do to a write in flight (R290) -/

/-- A step from `s` to `t` appends `es` to unit D's trace as R77 and R290 ask: its bytes go out with
CS asserted and the levels of the lines, the lines hold while a write stays in flight, and they move
at the end of a write only for CS, after a failed one. -/
structure GuardsWrite (s t : State) (es : List Event) : Prop where
  trace : t.d.trace = s.d.trace ++ es
  bytes : ∀ b cs dc, Event.byte b cs dc ∈ es → s.spi.busy = true ∧ cs = Config.csActive ∧
    cs = s.lines.cs ∧ dc = s.lines.dc ∧ t.lines = s.lines
  inFlight : s.spi.busy = true → t.spi.busy = true → t.lines = s.lines
  atEnd : s.spi.busy = true → t.lines ≠ s.lines →
    ∃ n v, es = [.spiEnd n .transmitFault, .line .cs v]

/-- A step with no write in flight has only to send no byte. -/
theorem guardsWrite_of_idle {s t : State} (hb : s.spi.busy = false)
    (h : ∃ es, t.d.trace = s.d.trace ++ es ∧ ∀ b cs dc, Event.byte b cs dc ∉ es) :
    ∃ es, GuardsWrite s t es := by
  obtain ⟨es, htr, hno⟩ := h
  exact ⟨es, htr, fun b cs dc hm => absurd hm (hno b cs dc), by simp [hb], by simp [hb]⟩

/-- A step that leaves the lines has only its bytes to answer for. -/
theorem guardsWrite_of_lines {s t : State} {es : List Event} (htr : t.d.trace = s.d.trace ++ es)
    (hl : t.lines = s.lines) (hbytes : ∀ b cs dc, Event.byte b cs dc ∈ es → s.spi.busy = true ∧
      cs = Config.csActive ∧ cs = s.lines.cs ∧ dc = s.lines.dc) : GuardsWrite s t es where
  trace := htr
  bytes := fun b cs dc hm => by simpa [hl] using hbytes b cs dc hm
  inFlight := fun _ _ => hl
  atEnd := fun _ hne => absurd hl hne

/-- Only unit D's side is looked at. -/
theorem GuardsWrite.congr {s s' t t' : State} {es : List Event} (h : GuardsWrite s t es)
    (hs : s.SameSide .d s') (ht : t.SameSide .d t') : GuardsWrite s' t' es := by
  obtain ⟨-, hsd, hsl, -, -, hss⟩ := sameSide_d.mp hs
  obtain ⟨-, htd, htl, -, -, hts⟩ := sameSide_d.mp ht
  obtain ⟨h1, h2, h3, h4⟩ := h
  constructor <;> simpa only [hsd, hsl, hss, htd, htl, hts]

/-- The fault step appends the end of the write, then the event of CS in a composite operation
(R125, R146). -/
theorem guardsWrite_spiFail (s : State) : ∃ es, GuardsWrite s s.spiFail es := by
  rw [spiFail_eq]
  split
  · refine ⟨[.spiEnd s.spi.sent .transmitFault, .line .cs s.draw.csLevel], ?_, by simp, ?_,
      fun _ _ => ⟨_, _, rfl⟩⟩
    · simp [State.raise, State.faultPath, State.spiReleased]
    · simp [State.raise, State.faultPath, State.spiReleased]
  · refine ⟨[.spiEnd s.spi.sent .transmitFault], guardsWrite_of_lines ?_ ?_ (by simp)⟩
    · simp [State.raise, State.spiReleased]
    · simp [State.raise, State.spiReleased]

theorem guardsWrite_spiStep {s : State} (h : s.SideInv .d) (hb : s.spi.busy = true) :
    ∃ es, GuardsWrite s s.spiStep es := by
  rcases spiStep_cases s with ⟨_, e⟩ | ⟨_, b, rest, hq, e⟩ | ⟨_, _, e⟩ <;> rw [e]
  · exact guardsWrite_spiFail s
  · have hcs : s.lines.cs = Config.csActive := h.2.csAsserted hb (by simp [hq])
    refine ⟨[.byte b s.lines.cs s.lines.dc], guardsWrite_of_lines rfl rfl ?_⟩
    simp [hb, hcs]
  · refine ⟨[.spiEnd s.spi.sent .ok], guardsWrite_of_lines ?_ ?_ (by simp)⟩
    · simp [spiComplete_eq]
    · simp [spiComplete_eq]

/-! ## Steps -/

/-- While a write is in flight unit D waits for it, so of its agents the SPI channel alone moves. -/
theorem guardsWrite_agentStep {s t : State} {a : Agent} (h : s.SideInv .d)
    (he : s.enabled a = true) (hact : s.actor = a.owner) (ht : s.agentStep a = .next t) :
    ∃ es, GuardsWrite s t es := by
  rcases eq_or_ne a.owner .d with ho | ho
  · have hag := (enabled_iff_agent (ho ▸ h.1)).mp he
    rw [ho] at hag
    have hidle : a ≠ .spi → s.spi.busy = false := fun hne =>
      spi_idle_of_not_waiting h.1 fun hr => hne (Option.some.inj (hag.symm.trans (by
        rw [seq_d, hr]; rfl)))
    cases a with
    | unit u => exact guardsWrite_of_idle (hidle (by simp)) (unitStep_appends ht)
    | spi => exact Host.Outcome.next.inj ht ▸ guardsWrite_spiStep h he
    | pulse => cases ho
    | timer u =>
      obtain rfl : u = .d := ho
      exact Host.Outcome.next.inj ht ▸
        guardsWrite_of_idle (hidle (by simp)) (timerStep_appends s)
  · have hside := agentStep_otherSide hact ht
    rw [← eq_otherUnit_of_ne ho.symm] at hside
    exact ⟨[], guardsWrite_of_lines (by simp [(sameSide_d.mp hside)]) (sameSide_d.mp hside).2.2.1
      (by simp)⟩

/-- Settles O48: bytes and line changes of a write in flight are the SPI channel's steps alone. -/
theorem chipSelectInvariant : Obligations.ChipSelectInvariant := by
  intro s t h hst
  obtain ⟨a, r, hm, hr, rfl⟩ := step_cases hst
  have hside := sameSide_withAgent .d s a
  have hinv := sideInv_sameSide hside ((inv_iff_sides.mp h).2 .d)
  have he := (enabled_withAgent s a a).trans (mover_enabled hm)
  obtain ⟨es, hes⟩ := guardsWrite_agentStep hinv he (withAgent_actor s a) hr
  obtain ⟨htr, hbytes, hin, hend⟩ := hes.congr hside.symm (sameSide_nextDraw .d r)
  exact ⟨es, htr, hbytes, hin, hend⟩

end Sys2Proof.Machine
end

section
/-! The payload check of R81: which words it refuses, and the refusal as a step (R257). -/

namespace Sys2Proof.Machine

/-- A word refused for its payload, its row and the checks before (R81). -/
theorem decode_eq_payloadLength {w : Word} {payload : List Byte} {u : UnitId} :
    decode w payload u = .payloadLength ↔
      ∃ o, Opcode.ofBits (opcField w) = some o ∧ o.matches w = true ∧ o.allows u = true ∧
        payload.length ≠ o.payloadLength (immField w) := by
  unfold decode
  cases Opcode.ofBits (opcField w) with
  | none => simp
  | some o =>
    cases hm : o.matches w <;> cases ha : o.allows u <;> simp [hm, ha]

/-- Only the three payload rows take IMM bytes (R61). -/
theorem payloadLength_eq_ite (o : Opcode) (imm : Half) : o.payloadLength imm =
    if o = .spiWrite ∨ o = .dispCmd ∨ o = .dispData then imm.toNat else 0 := by
  cases o <;> rfl

theorem mapSeq_sameBut (u : UnitId) (f : Seq → Seq) (s : State) : s.SameBut u (s.mapSeq u f) :=
  ⟨by simp, by simp, by simp, by simp, by simp, by simp, by simp,
    fun v hv => mapSeq_seq_of_ne s u v f hv⟩

/-- Settles O5: R81's checks in order, and a refusal writes its unit's sequencer alone. -/
theorem payloadLengthRefused : Obligations.PayloadLengthRefused := by
  refine ⟨fun w payload u => ?_, fun s u op hm ho hd => ?_⟩
  · simp only [decode_eq_payloadLength, ofBits_eq_some, Opcode.matches, beq_iff_eq,
      payloadLength_eq_ite]
  · have hu : (s.withAgent (.unit u)).unitStep u = .next ((s.withAgent (.unit u)).refuse u) := by
      simp only [State.unitStep, withAgent_seq, ho, hd]
    refine ⟨_, step_of_agentStep hm hu, ?_, ?_⟩
    · simp [State.refuse, Seq.refuse]
    · simpa [State.SameBut, State.refuse] using
        mapSeq_sameBut u Seq.refuse (s.withAgent (.unit u))

end Sys2Proof.Machine
end

section
/-! No step writes a program or the configuration (R6, R75). -/

namespace Sys2Proof.Machine

theorem mapSeq_prog {u : UnitId} {f : Seq → Seq} {s : State}
    (hf : (f (s.seq u)).prog = (s.seq u).prog) (v : UnitId) :
    ((s.mapSeq u f).seq v).prog = (s.seq v).prog := by
  rcases eq_or_ne v u with rfl | hv
  · rw [mapSeq_seq, hf]
  · rw [mapSeq_seq_of_ne s u v f hv]

theorem itemStep_prog (u v : UnitId) (n : Nat) (m : Micro) (s : State) :
    ((itemStep u n m s).seq v).prog = (s.seq v).prog := by
  unfold itemStep
  split
  · exact perform_prog u v m s
  · exact (mapSeq_prog (finish_prog ..) v).trans (perform_prog u v m s)

theorem unitStep_prog {s t : State} {u : UnitId} (h : s.unitStep u = .next t) (v : UnitId) :
    (t.seq v).prog = (s.seq v).prog := by
  rcases unitStep_next h with ⟨i, _, hi⟩ | ⟨op, _, _, rfl⟩ | ⟨op, _, _, rfl⟩
  · rcases exec_next hi with ⟨_, _, rfl⟩ | ⟨_, m, _, rfl⟩
    · exact mapSeq_prog (raise_prog ..) v
    · exact itemStep_prog ..
  · exact mapSeq_prog (raise_prog ..) v
  · exact mapSeq_prog (seqRefuse_prog _) v

theorem spiStep_prog (s : State) (v : UnitId) : (s.spiStep.seq v).prog = (s.seq v).prog := by
  rcases spiStep_cases s with ⟨_, e⟩ | ⟨_, b, rest, _, e⟩ | ⟨_, _, e⟩ <;> rw [e]
  · rw [spiFail_eq]
    split <;> exact (mapSeq_prog (raise_prog ..) v).trans (by cases v <;> rfl)
  · cases v <;> rfl
  · rw [spiComplete_eq]
    cases v
    · exact wake_prog ..
    · rfl

theorem pulseStep_prog (s : State) (v : UnitId) : (s.pulseStep.seq v).prog = (s.seq v).prog := by
  rw [pulseStep_wakes]
  cases v
  · rfl
  · exact wake_prog ..

theorem ended_prog (p : Pending) (q : Seq) : (q.ended p).prog = q.prog := by cases p <;> rfl

theorem timerStep_prog (s : State) (u v : UnitId) :
    ((s.timerStep u).seq v).prog = (s.seq v).prog := by
  cases hp : (s.seq u).pending with
  | none => rw [timerStep_of_none hp]
  | some p =>
    rw [timerStep_eq hp]
    refine mapSeq_prog ?_ v
    rw [wake_prog, ended_prog]

theorem agentStep_prog {s t : State} {a : Agent} (h : s.agentStep a = .next t) (v : UnitId) :
    (t.seq v).prog = (s.seq v).prog := by
  cases a with
  | unit u => exact unitStep_prog h v
  | spi => exact Host.Outcome.next.inj h ▸ spiStep_prog s v
  | pulse => exact Host.Outcome.next.inj h ▸ pulseStep_prog s v
  | timer u => exact Host.Outcome.next.inj h ▸ timerStep_prog s u v

/-- Settles O54: the configuration is a part of the side that the agent leaves, and no agent's step
writes a program. -/
theorem inputsNeverChange : Obligations.InputsNeverChange := by
  intro s t hst
  obtain ⟨a, r, _, hr, rfl⟩ := step_cases hst
  have hcfg := (agentStep_otherSide (withAgent_actor s a) hr).cfg_eq
  exact ⟨by simpa using hcfg, fun u => by simpa using agentStep_prog hr u⟩

end Sys2Proof.Machine
end

section
/-! The order of pixels, channels and bits on the wires (R63, R65, R176). -/

namespace Sys2Proof.Machine

@[simp] theorem byteBits_length (order : BitOrder) (b : Byte) : (byteBits order b).length = 8 := by
  cases order <;> simp [byteBits]

@[simp] theorem pixelBits_length (cfg : Config) (p : Pixel) : (pixelBits cfg p).length = 24 := by
  unfold pixelBits
  cases cfg.pixelWireOrder <;> simp [pixelBytes]

/-- The first bit on the wire is bit 7 (R63, R176). -/
theorem byteBits_msbFirst_getElem? (b : Byte) {k : Nat} (hk : k < 8) :
    (byteBits .msbFirst b)[k]? = some (b.getLsbD (7 - k)) := by
  simp [byteBits, hk, BitVec.getMsbD_eq_getLsbD]

theorem frameBits_cons (cfg : Config) (p : Pixel) (pixels : List Pixel) :
    frameBits cfg (p :: pixels) = pixelBits cfg p ++ frameBits cfg pixels :=
  List.flatMap_cons

theorem frameBits_length (cfg : Config) (pixels : List Pixel) :
    (frameBits cfg pixels).length = 24 * pixels.length := by
  induction pixels with
  | nil => rfl
  | cons p ps ih =>
    rw [frameBits_cons, List.length_append, pixelBits_length, ih, List.length_cons]
    omega

/-- A pixel on the wire: green, red, blue (R176). -/
theorem pixelBits_grb {cfg : Config} (hw : cfg.pixelWireOrder = .grb) (p : Pixel) :
    pixelBits cfg p = byteBits cfg.pulseBitOrder p.g ++
      (byteBits cfg.pulseBitOrder p.r ++ byteBits cfg.pulseBitOrder p.b) := by
  simp [pixelBits, hw, pixelBytes]

/-- Settles O59: each byte takes eight places of the wire, in the order of the channels. -/
theorem wireOrder : Obligations.WireOrder := by
  refine ⟨frameBits_length, fun cfg pixels p => frameBits_cons cfg p pixels,
    fun cfg p k hw hb hk => ?_, fun cfg b k hb hk => ?_⟩
  · rw [pixelBits_grb hw, hb]
    refine ⟨?_, ?_, ?_⟩
    · rw [List.getElem?_append_left (by simpa using hk), byteBits_msbFirst_getElem? _ hk]
    · rw [List.getElem?_append_right (by simp), List.getElem?_append_left (by simpa using hk)]
      simpa using byteBits_msbFirst_getElem? p.r hk
    · rw [List.getElem?_append_right (by simp; omega), List.getElem?_append_right (by simp; omega)]
      simp [byteBits_msbFirst_getElem? p.b hk, show 16 + k - 8 - 8 = k by omega]
  · simpa [spiWireBits, hb] using byteBits_msbFirst_getElem? b hk

end Sys2Proof.Machine
end

section
/-! A write on a fault-free channel, from the state in which unit D waits for it (R123, R124, R252):
byte by byte to its end, while the other unit is quiet. -/

namespace Sys2Proof.Machine

/-! ## A write in flight -/

/-- Unit D waits for the SPI channel, and no other agent has an enabled step. -/
structure State.WritesAlone (s : State) : Prop where
  waiting : s.d.run = .waiting .spiDone
  noWait : s.d.pending = none
  busy : s.spi.busy = true
  alone : s.Quiet .l

theorem State.SameSide.quiet {u : UnitId} {s t : State} (h : s.SameSide u t) (hq : s.Quiet u) :
    t.Quiet u := by
  obtain ⟨hspi, hpulse⟩ := channels_sameSide h
  obtain ⟨h1, h2, h3, h4⟩ := hq
  refine ⟨?_, ?_, fun hu => ?_, fun hu => ?_⟩
  · rwa [h.seq_eq]
  · rwa [h.seq_eq]
  · rw [hspi hu]; exact h3 hu
  · rw [hpulse hu]; exact h4 hu

theorem State.WritesAlone.congr {s t : State} (h : s.WritesAlone) (hd : s.SameSide .d t)
    (hl : s.SameSide .l t) : t.WritesAlone := by
  obtain ⟨-, hdd, -, -, -, hspi⟩ := sameSide_d.mp hd
  obtain ⟨h1, h2, h3, h4⟩ := h
  exact ⟨hdd ▸ h1, hdd ▸ h2, hspi ▸ h3, hl.quiet h4⟩

theorem State.WritesAlone.transmit {s : State} (h : s.WritesAlone) (b : Byte) (rest : List Byte) :
    (s.spiTransmit b rest).WritesAlone :=
  ⟨h.waiting, h.noWait, h.busy, h.alone⟩

/-- The SPI channel moves. -/
theorem State.WritesAlone.mover {s : State} (h : s.WritesAlone) : s.mover = some .spi := by
  refine only_mover (u := .d) h.alone rfl h.busy fun a ho ha => ?_
  cases a with
  | unit u =>
    obtain rfl : u = .d := ho
    simp [State.enabled, h.waiting] at ha
  | spi => rfl
  | pulse => cases ho
  | timer u =>
    obtain rfl : u = .d := ho
    simp [State.enabled, h.noWait] at ha

/-! ## Its end -/

/-- The state in which the write in flight has ended without a fault: its remaining bytes are in the
trace, then its end, and unit D goes on (R123, R124). -/
def State.spiWritten (s : State) : State :=
  { s with
    spi := ⟨false, [], s.spi.sent + s.spi.q.length⟩
    d := ({ s.d with
      trace := s.d.trace ++ byteEvents s.spi.q s.lines.cs s.lines.dc
        ++ [.spiEnd (s.spi.sent + s.spi.q.length) .ok] } : Seq).wake (s.items .d).length }

theorem spiWritten_sameSide {s t : State} (h : s.SameSide .d t) :
    s.spiWritten.SameSide .d t.spiWritten := by
  have hi := h.items_eq
  rw [sameSide_d] at h ⊢
  simp [State.spiWritten, h, hi]

/-- A sent byte does not change where the write ends. -/
theorem spiWritten_transmit {s : State} {b : Byte} {rest : List Byte} (hq : s.spi.q = b :: rest) :
    (s.spiTransmit b rest).spiWritten.SameSide .d s.spiWritten := by
  have hi : (s.spiTransmit b rest).items .d = s.items .d := items_congr rfl rfl rfl
  have hn : s.spi.sent + 1 + rest.length = s.spi.sent + (rest.length + 1) := by omega
  rw [sameSide_d]
  simp only [State.spiWritten, hi, hq, List.length_cons, ← hn]
  simp [State.spiTransmit, State.emit, Seq.emit, byteEvents]

/-! ## Its steps -/

theorem spiStep_of_cons {s : State} {b : Byte} {rest : List Byte} (hf : s.draw.spiFault = false)
    (hq : s.spi.q = b :: rest) : s.spiStep = s.spiTransmit b rest := by
  simp [State.spiStep, hf, hq]

theorem spiStep_of_nil {s : State} (hf : s.draw.spiFault = false) (hq : s.spi.q = []) :
    s.spiStep = s.spiWritten := by
  simp [State.spiStep, hf, hq, spiComplete_eq, State.spiWritten, byteEvents, Seq.emit]

/-- The SPI channel takes its step. -/
theorem State.WritesAlone.step {s : State} (h : s.WritesAlone) :
    ∃ t, step s = .next t ∧ s.spiStep.SameSide .d t ∧ s.SameSide .l t := by
  have hd : s.spiStep.SameSide .d (s.withAgent .spi).spiStep :=
    spiStep_sameSide rfl (sameSide_withAgent .d s .spi)
  have hl := (sameSide_withAgent .l s .spi).trans (spiStep_otherSide (s.withAgent .spi))
  exact ⟨_, step_of_agentStep h.mover rfl, hd.trans (sameSide_nextDraw ..),
    hl.trans (sameSide_nextDraw ..)⟩

/-- A write in flight with `n` bytes to send ends after `n + 1` steps, by induction on the bytes. -/
theorem run_writesAlone {s : State} (h : s.WritesAlone)
    (hf : s.SpiFaultFreeFor (s.spi.q.length + 1)) :
    ∃ t, core.run (s.spi.q.length + 1) s = .next t ∧ s.spiWritten.SameSide .d t ∧
      s.SameSide .l t := by
  obtain ⟨r, hst, hd, hl⟩ := h.step
  have hno : s.draw.spiFault = false := hf.now (Nat.succ_pos _) h.mover
  induction hq : s.spi.q generalizing s r with
  | nil => exact ⟨r, run_succ 0 hst, spiStep_of_nil hno hq ▸ hd, hl⟩
  | cons b rest ih =>
    rw [spiStep_of_cons hno hq] at hd
    have hr : r.WritesAlone := (h.transmit b rest).congr hd hl
    have hrq : r.spi.q = rest := congrArg Spi.q ((channels_sameSide hd).1 rfl)
    rw [hq] at hf
    have hrf : r.SpiFaultFreeFor (r.spi.q.length + 1) := hrq ▸ hf.next hst
    obtain ⟨r', hst', hd', hl'⟩ := hr.step
    obtain ⟨t, hrun, htd, htl⟩ := ih hr hrf r' hst' hd' hl' (hrf.now (Nat.succ_pos _) hr.mover) hrq
    refine ⟨t, (run_succ _ hst).trans hrun, ?_, hl.trans htl⟩
    exact ((spiWritten_transmit hq).symm.trans (spiWritten_sameSide hd)).trans htd

/-! ## SPI_WRITE -/

/-- A unit that starts an operation alone moves. -/
theorem State.StartsAlone.mover {s : State} {u : UnitId} {i : Instr} (h : s.StartsAlone u i) :
    s.mover = some (.unit u) := by
  refine only_mover h.alone rfl (beq_iff_eq.mpr h.running) fun a ho ha => ?_
  subst ho
  cases a with
  | unit u => rfl
  | spi => simp [State.enabled, h.spiIdle] at ha
  | pulse => simp [State.enabled, h.pulseIdle] at ha
  | timer u =>
    have hp : (s.seq u).pending = none := h.noWait
    simp [State.enabled, hp] at ha

/-- The issue step of a raw write that passes its frame check (R121, R122). -/
theorem step_spiWrite {s : State} {bytes : List Byte} (h : s.StartsAlone .d (.spiWrite bytes))
    (hcs : bytes ≠ [] → s.lines.cs = Config.csActive) :
    ∃ t, step s = .next t ∧ (s.startSpi bytes).SameSide .d t ∧ s.SameSide .l t := by
  have hwd := sameSide_withAgent .d s (.unit .d)
  have hu : (s.withAgent (.unit .d)).unitStep .d =
      .next ((s.withAgent (.unit .d)).startSpi bytes) := by
    rw [unitStep_of_current (hwd.current_eq.trans h.current)]
    refine exec_of_item (m := .spi bytes) (fun _ => ?_) ?_
    · simpa [execCheck, frameOpen, imp_iff_not_or] using hcs
    · have hmu : s.d.mu = 0 := h.atStart
      simp [execUnit, itemsOf, hmu]
  exact ⟨_, step_of_agentStep h.mover hu, sameSide_nextDraw .d _, sameSide_nextDraw .l _⟩

theorem writesAlone_startSpi {s : State} {i : Instr} (h : s.StartsAlone .d i) (bytes : List Byte) :
    (s.startSpi bytes).WritesAlone :=
  have hl : s.SameSide .l (s.startSpi bytes) := rfl
  ⟨rfl, h.noWait, rfl, hl.quiet h.alone⟩

/-- A wait at the last micro-operation of a list ends with the operation (R30). -/
theorem wake_of_last {q : Seq} {n : Nat} (h : n ≤ q.mu + 1) :
    q.wake n = ({ q with run := .running } : Seq).complete .ok :=
  if_neg (Nat.not_lt.mpr h)

/-- Unit D where a raw write has ended: its bytes and its end in the trace, the operation completed
(R39, R123, R124). -/
theorem spiWritten_startSpi_d {s : State} {bytes : List Byte}
    (h : s.StartsAlone .d (.spiWrite bytes)) : (s.startSpi bytes).spiWritten.d =
      ({ s.d with trace := s.d.trace ++ writeEvents bytes s.lines.cs s.lines.dc } : Seq).complete
        .ok := by
  have hi : (s.startSpi bytes).items .d = [.spi bytes] := items_of_current h.current
  have hrun : s.d.run = .running := h.running
  simp only [State.spiWritten, hi]
  rw [wake_of_last (by simp)]
  simp [Seq.await, writeEvents, ← hrun]

/-- Settles O30: the issue step, then the write in flight to its end. -/
theorem spiWriteCompletes : Obligations.SpiWriteCompletes := by
  intro s bytes h hcs hf
  obtain ⟨r, hst, hd, hl⟩ := step_spiWrite h hcs
  have hrq : r.spi.q = bytes := congrArg Spi.q ((channels_sameSide hd).1 rfl)
  have hrf : r.SpiFaultFreeFor (r.spi.q.length + 1) := hrq.symm ▸ hf.next hst
  obtain ⟨t, hrun, htd, htl⟩ := run_writesAlone ((writesAlone_startSpi h bytes).congr hd hl) hrf
  rw [hrq] at hrun
  obtain ⟨-, htseq, htlines, htdrv, httf, htspi⟩ :=
    sameSide_d.mp ((spiWritten_sameSide hd).trans htd)
  refine ⟨t, (run_succ _ hst).trans hrun, ?_, htlines, ?_, htdrv, httf, hl.trans htl⟩
  · rw [htseq, spiWritten_startSpi_d h, writeEvents, ← List.append_assoc]
    rfl
  · rw [htspi]
    simp [State.spiWritten]

end Sys2Proof.Machine
end

section
/-! The operation word (R80, R84): every well-formed operation decodes from its own word and
payload, every word and payload that decode are those of the operation they decode to, and the
illegal words of R85 halt the unit that fetches one. -/

namespace Sys2Proof.Machine

/-! ## From an operation to its word -/

/-- The word of a well-formed operation belongs to its row and to no other (R84). -/
theorem encodedWordInRow (i : Instr) : Laws.EncodedWordInRow.Statement i := by
  cases i with
  | lineSet line level => exact Laws.EncodedWordInRow.lineSet line level
  | spiWrite bytes => exact Laws.EncodedWordInRow.spiWrite bytes
  | dispInit => exact Laws.EncodedWordInRow.dispInit
  | dispCmd op payload => exact Laws.EncodedWordInRow.dispCmd op payload
  | dispData payload => exact Laws.EncodedWordInRow.dispData payload
  | pulseWrite count => exact Laws.EncodedWordInRow.pulseWrite count
  | sleep ms => exact Laws.EncodedWordInRow.sleep ms
  | tickerSet period => exact Laws.EncodedWordInRow.tickerSet period
  | tickerNext => exact Laws.EncodedWordInRow.tickerNext
  | chaseStep => exact Laws.EncodedWordInRow.chaseStep
  | wheelStep => exact Laws.EncodedWordInRow.wheelStep

theorem matches_encode {i : Instr} (h : i.wf = true) : i.opcode.matches (encode i).word = true :=
  beq_iff_eq.mpr ((encodedWordInRow i h i.opcode).mpr rfl)

/-- The payload of a well-formed operation has the length its word gives (R61). -/
theorem payload_length_of_wf {i : Instr} (h : i.wf = true) :
    i.payload.length = i.opcode.payloadLength i.immBits := by
  have hlen : i.payload.length < 2 ^ 16 := of_decide_eq_true h
  cases i with
  | spiWrite payload | dispCmd _ payload | dispData payload =>
    exact (Nat.mod_eq_of_lt hlen).symm
  | lineSet | dispInit | pulseWrite | sleep | tickerSet | tickerNext | chaseStep | wheelStep => rfl

theorem ofBits_lineBits (line : Line) : Line.ofBits (line.bits.extractLsb' 0 2) = line := by
  cases line <;> decide

/-- An operation is built from its opcode, its two fields and its payload (R84). -/
theorem build_fields (i : Instr) : i.opcode.build i.argBits i.immBits i.payload = i := by
  cases i with
  | lineSet line level =>
    have hlevel : (if level then 1 else 0 : Half).getLsbD 0 = level := by cases level <;> rfl
    exact congrArg₂ Instr.lineSet (ofBits_lineBits line) hlevel
  | spiWrite | dispInit | dispCmd | dispData | pulseWrite | sleep | tickerSet | tickerNext
  | chaseStep | wheelStep => rfl

/-- Settles O2: the word's fields are the operation's, and its row builds it from them. -/
theorem decodeOfEncode : Obligations.DecodeOfEncode := by
  intro i u hwf hu
  refine decode_eq_ok.mpr ⟨i.opcode, ?_, matches_encode hwf, hu, ?_, ?_⟩
  · simp [encode]
  · simpa [encode] using payload_length_of_wf hwf
  · simpa [encode] using (build_fields i).symm

/-! ## From a word to its operation -/

theorem lineBits_ofBits {a : Byte} (h : a.toNat < 4) :
    (Line.ofBits (a.extractLsb' 0 2)).bits = a := by
  revert a; decide

/-- The operation built from a word of its row has the word's `A` (R83). -/
theorem argBits_build {o : Opcode} {a : Byte} {imm : Half} (h : o.fieldsOk a imm)
    (payload : List Byte) : (o.build a imm payload).argBits = a := by
  cases o with
  | lineSet => exact lineBits_ofBits h.1
  | dispCmd => rfl
  | spiWrite | dispData | pulseWrite | sleep | tickerSet => exact Eq.symm h
  | dispInit | tickerNext | chaseStep | wheelStep => exact h.1.symm

/-- The operation built from a word of its row, with a payload as long as the word says, has the
word's `IMM` (R82). -/
theorem immBits_build {o : Opcode} {a : Byte} {imm : Half} {payload : List Byte}
    (h : o.fieldsOk a imm) (hlen : payload.length = o.payloadLength imm) :
    (o.build a imm payload).immBits = imm := by
  cases o with
  | lineSet => obtain ⟨-, rfl | rfl⟩ := h <;> rfl
  | spiWrite | dispCmd | dispData =>
    exact (congrArg (BitVec.ofNat 16) hlen).trans (BitVec.ofNat_toNat 16 imm)
  | pulseWrite | sleep | tickerSet => rfl
  | dispInit | tickerNext | chaseStep | wheelStep => exact h.2.symm

/-- An operation that is built with a payload of the right length has that payload (R61). -/
theorem payload_build {o : Opcode} {imm : Half} {payload : List Byte}
    (hlen : payload.length = o.payloadLength imm) (a : Byte) :
    (o.build a imm payload).payload = payload := by
  cases o with
  | spiWrite | dispCmd | dispData => rfl
  | lineSet | dispInit | pulseWrite | sleep | tickerSet | tickerNext | chaseStep | wheelStep =>
    exact (List.eq_nil_of_length_eq_zero hlen).symm

theorem payloadLength_lt (o : Opcode) (imm : Half) : o.payloadLength imm < 65536 := by
  have := imm.isLt
  rw [payloadLength_eq_ite]
  split <;> omega

/-- Settles O3: the operation that a word's row builds has the word's fields. -/
theorem encodeOfDecode : Obligations.EncodeOfDecode := by
  intro w payload u i h
  obtain ⟨o, -, hrow, hu, hlen, rfl⟩ := decode_eq_ok.mp h
  obtain ⟨hopc, hfields⟩ := (matches_iff o w).mp hrow
  have hpay := payload_build hlen (argField w)
  refine ⟨?_, ?_, by rwa [opcode_build]⟩
  · rw [encode, opcode_build, argBits_build hfields, immBits_build hfields hlen, hpay, ← hopc,
      packWord_fields]
  · rw [Instr.wf, hpay, hlen]
    exact decide_eq_true (payloadLength_lt o _)

/-! ## The illegal words -/

/-- An illegal word has no row, or fails its row's check or its unit's (R81, R85). -/
theorem decode_eq_illegalOp {w : Word} {payload : List Byte} {u : UnitId} :
    decode w payload u = .illegalOp ↔ Opcode.ofBits (opcField w) = none ∨
      ∃ o, Opcode.ofBits (opcField w) = some o ∧ (o.matches w = false ∨ o.allows u = false) := by
  unfold decode
  cases Opcode.ofBits (opcField w) with
  | none => simp
  | some o =>
    cases hm : o.matches w with
    | false => simp [hm]
    | true =>
      cases ha : o.allows u with
      | false => simp [hm, ha]
      | true => by_cases hl : payload.length = o.payloadLength (immField w) <;> simp [hm, ha, hl]

/-- The words R85 lists, in its order. -/
theorem illegalOp_iff {w : Word} {payload : List Byte} {u : UnitId} :
    decode w payload u = .illegalOp ↔ opcField w = 0x00 ∨ 0x0C ≤ (opcField w).toNat ∨
      ∃ o : Opcode, o.bits = opcField w ∧ (w &&& o.mask ≠ o.matchWord ∨ o.allows u = false) := by
  simp only [decode_eq_illegalOp, ofBits_eq_none, ofBits_eq_some, Opcode.matches,
    beq_eq_false_iff_ne, or_assoc]

/-! ## Halting faults -/

/-- The record of a fault changes no other field, and keeps a fault that is there (R250). -/
theorem record_eq (q : Seq) (u : UnitId) (code : FaultCode) (info : FaultInfo) :
    q.record u code info =
      { q with fault := some (q.fault.getD ⟨code, u, q.pc, q.mu, info⟩) } := by
  rw [← record_fault]
  unfold Seq.record
  split <;> rfl

/-- A halting fault writes its record and halts its unit, with no other effect (R250, R256). -/
theorem haltedBy_raise {code : FaultCode} {s : State} (h : code.halts s.cfg = true) (u : UnitId)
    (info : FaultInfo) : s.HaltedBy u code info (s.raise u code info) := by
  refine ⟨?_, mapSeq_sameBut u _ s⟩
  rw [State.raise, mapSeq_seq, raise_of_halts h, record_eq]

/-- What a step does beside its agent's step is no effect: it takes the draws (R21). -/
theorem haltedBy_step {s t : State} {u : UnitId} {code : FaultCode} {info : FaultInfo} {a : Agent}
    (h : (s.withAgent a).HaltedBy u code info t) : s.HaltedBy u code info t.nextDraw := by
  simpa [State.HaltedBy, State.SameBut] using h

/-- Settles O4: R81's checks in order, and the fault of an illegal word halts its unit. -/
theorem illegalWordsHalt : Obligations.IllegalWordsHalt := by
  refine ⟨fun w payload u => illegalOp_iff, fun payload u => illegalOp_iff.mpr (.inl rfl),
    fun s u op hm ho hd => ?_⟩
  have hu : (s.withAgent (.unit u)).unitStep u =
      .next ((s.withAgent (.unit u)).raise u .illegalOp (.word op.word)) := by
    simp only [State.unitStep, withAgent_seq, ho, hd]
  exact ⟨_, step_of_agentStep hm hu, haltedBy_step (haltedBy_raise rfl u _)⟩

end Sys2Proof.Machine
end

section
/-! The examples of R95 and the assembler's forms (R92 to R94): closed facts, evaluated. -/

namespace Sys2Proof.Machine

/-- Settles O1: each row and each illegal word is evaluated. -/
theorem specWordsDecode : Obligations.SpecWordsDecode := by
  refine ⟨by decide, fun w hw u => ?_⟩
  fin_cases hw <;> rfl

/-- Settles O6: each text is assembled. -/
theorem assemblerForms : Obligations.AssemblerForms :=
  ⟨by decide, by decide, by decide⟩

end Sys2Proof.Machine
end

section
/-! An operation of unit D on a fault-free channel, run to its end while the other unit is quiet
(R28, R30, R252): each micro-operation of its list takes its steps and leaves its effect, and the
last one completes the operation. -/

namespace Sys2Proof.Machine

/-! ## A unit inside an operation -/

/-- Unit `u` is Running at operation `i`, none of its own agents is busy, and the other unit is
quiet: `StartsAlone` at any micro-operation. -/
structure State.RunsAlone (s : State) (u : UnitId) (i : Instr) : Prop where
  current : s.current u = some i
  running : (s.seq u).run = .running
  noWait : (s.seq u).pending = none
  spiIdle : s.spi.busy = false
  pulseIdle : s.pulse.busy = false
  alone : s.Quiet (otherUnit u)

theorem State.StartsAlone.runsAlone {s : State} {u : UnitId} {i : Instr} (h : s.StartsAlone u i) :
    s.RunsAlone u i :=
  ⟨h.current, h.running, h.noWait, h.spiIdle, h.pulseIdle, h.alone⟩

/-- Each channel is on one of the two sides (R27). -/
theorem channels_of_sides {u : UnitId} {s t : State} (hu : s.SameSide u t)
    (ho : s.SameSide (otherUnit u) t) : t.spi = s.spi ∧ t.pulse = s.pulse := by
  cases u
  · exact ⟨(channels_sameSide hu).1 rfl, (channels_sameSide ho).2 rfl⟩
  · exact ⟨(channels_sameSide ho).1 rfl, (channels_sameSide hu).2 rfl⟩

theorem State.RunsAlone.congr {s t : State} {u : UnitId} {i : Instr} (h : s.RunsAlone u i)
    (hu : s.SameSide u t) (ho : s.SameSide (otherUnit u) t) : t.RunsAlone u i := by
  obtain ⟨hspi, hpulse⟩ := channels_of_sides hu ho
  obtain ⟨h1, h2, h3, h4, h5, h6⟩ := h
  exact ⟨hu.current_eq.trans h1, hu.seq_eq ▸ h2, hu.seq_eq ▸ h3, hspi ▸ h4, hpulse ▸ h5,
    ho.quiet h6⟩

/-- Its sequencer moves. -/
theorem State.RunsAlone.mover {s : State} {u : UnitId} {i : Instr} (h : s.RunsAlone u i) :
    s.mover = some (.unit u) := by
  refine only_mover h.alone rfl (beq_iff_eq.mpr h.running) fun a ho ha => ?_
  subst ho
  cases a with
  | unit u => rfl
  | spi => simp [State.enabled, h.spiIdle] at ha
  | pulse => simp [State.enabled, h.pulseIdle] at ha
  | timer u =>
    have hp : (s.seq u).pending = none := h.noWait
    simp [State.enabled, hp] at ha

/-- The sequencer step of a micro-operation, where the operation's check passes (R28, R255). -/
theorem State.RunsAlone.step_item {s : State} {u : UnitId} {i : Instr} {m : Micro}
    (h : s.RunsAlone u i) (hm : (s.items u)[(s.seq u).mu]? = some m)
    (hc : (s.seq u).mu = 0 → (execCheck i (s.withAgent (.unit u))).1 = true) :
    ∃ t, step s = .next t ∧ (itemStep u (s.items u).length m s).SameSide u t ∧
      s.SameSide (otherUnit u) t := by
  have ha := current_allows h.current
  have hside := sameSide_withAgent u s (.unit u)
  have heu : execUnit i (s.withAgent (.unit u)) = u := execUnit_of_allows ha rfl
  rw [items_of_current h.current] at hm ⊢
  have hma := item_actsFor ha hm
  have hu : (s.withAgent (.unit u)).unitStep u =
      .next (itemStep u (itemsOf s.cfg i).length m (s.withAgent (.unit u))) := by
    rw [unitStep_of_current (hside.current_eq.trans h.current),
      exec_of_item (m := m) (by rwa [heu, withAgent_seq]) (by rwa [heu, withAgent_seq]), heu]
    rfl
  refine ⟨_, step_of_agentStep h.mover hu, ?_, ?_⟩
  · exact (itemStep_sameSide hma _ hside).trans (sameSide_nextDraw ..)
  · exact (sameSide_withAgent ..).trans ((itemStep_otherSide hma ..).trans (sameSide_nextDraw ..))

/-! ## A wait for the timer -/

/-- Unit `u` waits for the timer, and no other agent has an enabled step. -/
structure State.TimesAlone (s : State) (u : UnitId) (p : Pending) : Prop where
  waiting : (s.seq u).run ≠ .running
  pending : (s.seq u).pending = some p
  spiIdle : s.spi.busy = false
  pulseIdle : s.pulse.busy = false
  alone : s.Quiet (otherUnit u)

theorem State.TimesAlone.congr {s t : State} {u : UnitId} {p : Pending} (h : s.TimesAlone u p)
    (hu : s.SameSide u t) (ho : s.SameSide (otherUnit u) t) : t.TimesAlone u p := by
  obtain ⟨hspi, hpulse⟩ := channels_of_sides hu ho
  obtain ⟨h1, h2, h3, h4, h5⟩ := h
  exact ⟨hu.seq_eq ▸ h1, hu.seq_eq ▸ h2, hspi ▸ h3, hpulse ▸ h4, ho.quiet h5⟩

/-- The timer moves. -/
theorem State.TimesAlone.mover {s : State} {u : UnitId} {p : Pending} (h : s.TimesAlone u p) :
    s.mover = some (.timer u) := by
  refine only_mover h.alone rfl (Option.isSome_of_eq_some h.pending) fun a ho ha => ?_
  subst ho
  cases a with
  | unit u => exact absurd (beq_iff_eq.mp ha) h.waiting
  | spi => simp [State.enabled, h.spiIdle] at ha
  | pulse => simp [State.enabled, h.pulseIdle] at ha
  | timer u => rfl

/-- The timer ends the wait (R191, R197). -/
theorem State.TimesAlone.step {s : State} {u : UnitId} {p : Pending} (h : s.TimesAlone u p) :
    ∃ t, step s = .next t ∧
      (s.mapSeq u fun q => (q.ended p).wake (s.items u).length).SameSide u t ∧
      s.SameSide (otherUnit u) t := by
  rw [← timerStep_eq h.pending]
  exact ⟨_, step_of_agentStep h.mover rfl,
    (timerStep_sameSide (sameSide_withAgent ..)).trans (sameSide_nextDraw ..),
    (sameSide_withAgent ..).trans ((timerStep_otherSide ..).trans (sameSide_nextDraw ..))⟩

theorem mapSeq_mapSeq (u : UnitId) (f g : Seq → Seq) (s : State) :
    (s.mapSeq u f).mapSeq u g = s.mapSeq u (g ∘ f) := by cases u <;> rfl

/-- A unit that has issued a timer wait and is woken from it goes on where it was. -/
theorem wake_ended {q : Seq} (hr : q.run = .running) (p : Pending) (w : Wait) (n : Nat) :
    (((q.setPending (some p)).await w).ended p).wake n = (q.ended p).finish n := by
  cases p <;> simp [Seq.wake, Seq.ended, Seq.setPending, Seq.await, Seq.emit, Seq.countTick, ← hr]

/-! ## What a micro-operation leaves -/

/-- How many steps a micro-operation of unit D takes on a fault-free channel: its issue, then one
for each byte of a write and one for the end of a wait (R30, R123, R124). -/
def Micro.steps : Micro → Nat
  | .spi bytes => bytes.length + 2
  | .sleep _ | .tick | .frame => 2
  | .line _ _ | .drv _ | .drvReady | .ticker _ | .chase | .wheel => 1

/-- The machine after a micro-operation of unit D has ended without a fault, unit D's place in its
list aside. -/
def State.afterItem (s : State) (m : Micro) : State :=
  match m with
  | .spi bytes =>
    { s with
      spi := ⟨false, [], bytes.length⟩
      d := { s.d with trace := s.d.trace ++ writeEvents bytes s.lines.cs s.lines.dc } }
  | .sleep ms => s.mapSeq .d (Seq.ended (.sleep ms))
  | .tick => s.mapSeq .d (Seq.ended .tick)
  | .line _ _ | .drv _ | .drvReady | .ticker _ | .frame | .chase | .wheel => perform .d m s

/-- The same after each micro-operation of a list in turn. -/
def State.afterItems (s : State) (ms : List Micro) : State := ms.foldl State.afterItem s

theorem afterItem_sameSide {m : Micro} (hm : m.ActsFor .d) {s t : State} (h : s.SameSide .d t) :
    (s.afterItem m).SameSide .d (t.afterItem m) := by
  cases m with
  | spi bytes =>
    rw [sameSide_d] at h ⊢
    simp [State.afterItem, h]
  | sleep | tick => exact mapSeq_sameSide h rfl
  | line | drv | drvReady | ticker => exact perform_sameSide hm h
  | frame | chase | wheel => cases hm

theorem afterItem_otherSide {m : Micro} (hm : m.ActsFor .d) (s : State) :
    s.SameSide .l (s.afterItem m) := by
  cases m with
  | spi | sleep | tick => rfl
  | line | drv | drvReady | ticker => exact perform_otherSide hm s
  | frame | chase | wheel => cases hm

theorem afterItems_sameSide {ms : List Micro} (hms : ∀ m ∈ ms, m.ActsFor .d) {s t : State}
    (h : s.SameSide .d t) : (s.afterItems ms).SameSide .d (t.afterItems ms) := by
  induction ms generalizing s t with
  | nil => exact h
  | cons m ms ih =>
    obtain ⟨hm, hms⟩ := List.forall_mem_cons.mp hms
    exact ih hms (afterItem_sameSide hm h)

/-- Unit D at another place in its list. -/
def Seq.setMu (k : Nat) (q : Seq) : Seq := { q with mu := k }

theorem complete_setMu (st : Status) (k : Nat) : Seq.complete st ∘ Seq.setMu k = Seq.complete st :=
  rfl

/-- No effect depends on the place in the list. -/
theorem afterItem_setMu (s : State) (m : Micro) (k : Nat) :
    (s.mapSeq .d (Seq.setMu k)).afterItem m = (s.afterItem m).mapSeq .d (Seq.setMu k) := by
  cases m <;> rfl

theorem afterItems_setMu (s : State) (ms : List Micro) (k : Nat) :
    (s.mapSeq .d (Seq.setMu k)).afterItems ms = (s.afterItems ms).mapSeq .d (Seq.setMu k) := by
  induction ms generalizing s with
  | nil => rfl
  | cons m ms ih => exact (congrArg (State.afterItems · ms) (afterItem_setMu s m k)).trans (ih _)

/-- The end of a timer wait writes the trace and the ticker alone, where the unit has no other wait
(R191, R197). -/
theorem ended_eq {q : Seq} (hp : q.pending = none) (p : Pending) :
    ∃ tr tk, q.ended p = { q with trace := tr, ticker := tk } := by
  cases p with
  | sleep ms =>
    refine ⟨q.trace ++ [Event.sleep ms], q.ticker, ?_⟩
    simp [Seq.ended, Seq.setPending, Seq.emit, hp]
  | tick =>
    refine ⟨q.trace ++ [Event.tick (q.ticker.k + 1)], q.countTick.ticker, ?_⟩
    simp [Seq.ended, Seq.setPending, Seq.emit, Seq.countTick, hp]

/-- A micro-operation that has ended has written unit D's trace and ticker alone (R24). -/
theorem afterItem_d {s : State} (hp : s.d.pending = none) {m : Micro} (hm : m.ActsFor .d) :
    ∃ tr tk, (s.afterItem m).d = { s.d with trace := tr, ticker := tk } := by
  cases m with
  | sleep ms => exact ended_eq hp (.sleep ms)
  | tick => exact ended_eq hp .tick
  | spi | line | drv | drvReady | ticker => exact ⟨_, _, rfl⟩
  | frame | chase | wheel => cases hm

theorem afterItem_spi_idle {s : State} (h : s.spi.busy = false) (m : Micro) :
    (s.afterItem m).spi.busy = false := by
  cases m with
  | spi => rfl
  | sleep | tick | line | drv | drvReady | ticker | frame | chase | wheel => exact h

/-- A micro-operation of unit D that has ended leaves the unit running alone, at whichever place. -/
theorem State.RunsAlone.afterItem {s : State} {i : Instr} (h : s.RunsAlone .d i) {m : Micro}
    (hm : m.ActsFor .d) (k : Nat) : ((s.afterItem m).mapSeq .d (Seq.setMu k)).RunsAlone .d i := by
  have hl : s.SameSide .l ((s.afterItem m).mapSeq .d (Seq.setMu k)) := afterItem_otherSide hm s
  obtain ⟨hcur, hrun, hwait, hspi, hpulse, halone⟩ := h
  obtain ⟨tr, tk, hd⟩ := afterItem_d hwait hm
  have hq : ((s.afterItem m).mapSeq .d (Seq.setMu k)).seq .d =
      { s.d with trace := tr, ticker := tk, mu := k } := by
    rw [mapSeq_seq, seq_d, hd]
    rfl
  exact ⟨(current_congr (by rw [hq]; rfl) (by rw [hq]; rfl)).trans hcur, hq ▸ hrun, hq ▸ hwait,
    afterItem_spi_idle hspi m, (channels_sameSide hl).2 rfl ▸ hpulse, hl.quiet halone⟩

/-! ## Running a list -/

/-- Its list holds micro-operations on what unit D owns (R27). -/
theorem State.RunsAlone.actsFor {s : State} {i : Instr} (h : s.RunsAlone .d i) :
    ∀ m ∈ s.items .d, m.ActsFor .d := by
  intro m hm
  obtain ⟨k, hk⟩ := List.mem_iff_getElem?.mp hm
  rw [items_of_current h.current] at hk
  exact item_actsFor (current_allows h.current) hk

/-- The premise after some steps. -/
theorem State.SpiFaultFreeFor.after {s t : State} {a b : Nat} (h : s.SpiFaultFreeFor (a + b))
    (hr : core.run a s = .next t) : t.SpiFaultFreeFor b :=
  fun k hk r hrk => h (a + k) (by omega) r ((run_add a k hr).trans hrk)

/-- The premise for fewer steps. -/
theorem State.SpiFaultFreeFor.mono {s : State} {m n : Nat} (h : s.SpiFaultFreeFor n) (hmn : m ≤ n) :
    s.SpiFaultFreeFor m :=
  fun k hk => h k (by omega)

/-- A write of unit D's list, from the state that has issued it (R123, R124). -/
theorem spiWritten_startSpi {s : State} (hr : s.d.run = .running) (bytes : List Byte) :
    (s.startSpi bytes).spiWritten =
      (s.afterItem (.spi bytes)).mapSeq .d (Seq.finish (s.items .d).length) := by
  have hi : (s.startSpi bytes).items .d = s.items .d := items_congr rfl rfl rfl
  rw [State.spiWritten, hi]
  simp [State.afterItem, Seq.wake, writeEvents, State.mapSeq, State.setSeq, State.startSpi,
    Seq.await, ← hr]

/-- A timer wait of unit D's list, from the state that has issued it (R191, R197). -/
theorem State.RunsAlone.run_timer {s r : State} {i : Instr} {p : Pending} {w : Wait}
    (h : s.RunsAlone .d i) (hst : step s = .next r)
    (hd : (s.mapSeq .d fun q => (q.setPending (some p)).await w).SameSide .d r)
    (hl : s.SameSide .l r) :
    ∃ t, core.run 2 s = .next t ∧
      (s.mapSeq .d fun q => (q.ended p).finish (s.items .d).length).SameSide .d t ∧
      s.SameSide .l t := by
  have hw : (s.mapSeq .d fun q => (q.setPending (some p)).await w).TimesAlone .d p :=
    ⟨by simp, rfl, h.spiIdle, h.pulseIdle, h.alone⟩
  obtain ⟨t, hst', hd', hl'⟩ := (hw.congr hd hl).step
  refine ⟨t, (run_succ 1 hst).trans (run_succ 0 hst'), ?_, hl.trans hl'⟩
  have hi : r.items .d = s.items .d := hd.items_eq.trans (items_congr rfl rfl rfl)
  rw [hi] at hd'
  have hwake :=
    (mapSeq_sameSide hd (f := fun q => (q.ended p).wake (s.items .d).length) rfl).trans hd'
  refine State.SameSide.trans ?_ hwake
  rw [mapSeq_mapSeq]
  exact mapSeq_sameSide (.refl .d s) (wake_ended h.running p w _).symm

/-- One micro-operation of unit D, from its issue to its end. -/
theorem State.RunsAlone.run_item {s : State} {i : Instr} {m : Micro} (h : s.RunsAlone .d i)
    (hm : (s.items .d)[s.d.mu]? = some m)
    (hc : s.d.mu = 0 → (execCheck i (s.withAgent (.unit .d))).1 = true)
    (hf : s.SpiFaultFreeFor m.steps) :
    ∃ t, core.run m.steps s = .next t ∧
      ((s.afterItem m).mapSeq .d (Seq.finish (s.items .d).length)).SameSide .d t ∧
      s.SameSide .l t := by
  obtain ⟨r, hst, hd, hl⟩ := h.step_item hm hc
  have hma := h.actsFor m (List.mem_of_getElem? hm)
  cases m with
  | spi bytes =>
    have hrq : r.spi.q = bytes := congrArg Spi.q ((channels_sameSide hd).1 rfl)
    have hrf : r.SpiFaultFreeFor (r.spi.q.length + 1) := hrq.symm ▸ hf.next hst
    have hside : s.SameSide .l (s.startSpi bytes) := rfl
    have hw : (s.startSpi bytes).WritesAlone := ⟨rfl, h.noWait, rfl, hside.quiet h.alone⟩
    obtain ⟨t, hrun, htd, htl⟩ := run_writesAlone (hw.congr hd hl) hrf
    rw [hrq] at hrun
    rw [← spiWritten_startSpi h.running]
    exact ⟨t, (run_succ _ hst).trans hrun, (spiWritten_sameSide hd).trans htd, hl.trans htl⟩
  | sleep ms => exact h.run_timer (p := .sleep ms) (w := .sleepDone) hst hd hl
  | tick => exact h.run_timer (p := .tick) (w := .tickDone) hst hd hl
  | line | drv | drvReady | ticker => exact ⟨r, run_succ 0 hst, hd, hl⟩
  | frame | chase | wheel => cases hma

/-- A list from its place `k` on. -/
theorem drop_eq_cons {α : Type} {l : List α} {k : Nat} {x : α} {xs : List α}
    (h : l.drop k = x :: xs) :
    l[k]? = some x ∧ l.drop (k + 1) = xs ∧ l.length = k + 1 + xs.length := by
  refine ⟨?_, ?_, ?_⟩
  · rw [← List.head?_drop, h]; rfl
  · rw [← List.tail_drop, h]; rfl
  · have := congrArg List.length h
    rw [List.length_drop, List.length_cons] at this
    omega

/-- The first of the micro-operations that are left: unit D goes to the next one, or, where it is
the last, completes the operation (R30). -/
theorem State.RunsAlone.run_first {s : State} {i : Instr} {m : Micro} {ms : List Micro}
    (h : s.RunsAlone .d i) (hrest : (s.items .d).drop s.d.mu = m :: ms)
    (hc : s.d.mu = 0 → (execCheck i (s.withAgent (.unit .d))).1 = true)
    (hf : s.SpiFaultFreeFor m.steps) :
    ∃ t, core.run m.steps s = .next t ∧ s.SameSide .l t ∧
      ((s.afterItem m).mapSeq .d
        (if ms = [] then Seq.complete .ok else Seq.setMu (s.d.mu + 1))).SameSide .d t := by
  obtain ⟨hm, -, hlen⟩ := drop_eq_cons hrest
  obtain ⟨t, hrun, hd, hl⟩ := h.run_item hm hc hf
  refine ⟨t, hrun, hl, (mapSeq_sameSide (.refl ..) ?_).trans hd⟩
  obtain ⟨_, _, hq⟩ := afterItem_d h.noWait (h.actsFor m (List.mem_of_getElem? hm))
  rw [seq_d, hq]
  cases ms with
  | nil => exact (if_neg (by simp [hlen])).symm
  | cons m' ms => exact (if_pos (by simp [hlen])).symm

/-- The rest of unit D's list, by induction on the micro-operations that are left. -/
theorem State.RunsAlone.run_items {s : State} {i : Instr} {m : Micro} {ms : List Micro}
    (h : s.RunsAlone .d i) (hrest : (s.items .d).drop s.d.mu = m :: ms)
    (hc : s.d.mu = 0 → (execCheck i (s.withAgent (.unit .d))).1 = true)
    (hf : s.SpiFaultFreeFor ((m :: ms).map Micro.steps).sum) :
    ∃ t, core.run ((m :: ms).map Micro.steps).sum s = .next t ∧
      ((s.afterItems (m :: ms)).mapSeq .d (Seq.complete .ok)).SameSide .d t ∧ s.SameSide .l t := by
  have hfirst : s.SpiFaultFreeFor m.steps := hf.mono (by simp)
  induction ms generalizing s m with
  | nil =>
    obtain ⟨t, hrun, hl, hd⟩ := h.run_first hrest hc hfirst
    exact ⟨t, hrun, hd, hl⟩
  | cons m' ms ih =>
    obtain ⟨r, hrun, hl, hd⟩ := h.run_first hrest hc hfirst
    rw [if_neg (List.cons_ne_nil m' ms)] at hd
    obtain ⟨hm, hnext, -⟩ := drop_eq_cons hrest
    have hma := h.actsFor m (List.mem_of_getElem? hm)
    have hr : r.RunsAlone .d i :=
      (h.afterItem hma _).congr hd ((afterItem_otherSide hma s).symm.trans hl)
    have hmu : r.d.mu = s.d.mu + 1 := congrArg Seq.mu hd.seq_eq
    have hrest' : (r.items .d).drop r.d.mu = m' :: ms := by
      rwa [items_of_current hr.current, hl.cfg_eq, ← items_of_current h.current, hmu]
    have hf' := hf.after hrun
    obtain ⟨t, hrun', hd', hl'⟩ := ih hr hrest' (by omega) hf' (hf'.mono (by simp))
    refine ⟨t, (run_add _ _ hrun).trans hrun', ?_, hl.trans hl'⟩
    have hms : ∀ x ∈ m' :: ms, x.ActsFor .d := fun x hx =>
      hr.actsFor x (List.mem_of_mem_drop (hrest' ▸ hx))
    have hafter := afterItems_sameSide hms hd
    have hcomplete := mapSeq_sameSide hafter (f := Seq.complete .ok) rfl
    rw [afterItems_setMu, mapSeq_mapSeq, complete_setMu] at hcomplete
    exact hcomplete.trans hd'

/-- An operation of unit D whose check passes, from its start to its end. -/
theorem State.StartsAlone.run {s : State} {i : Instr} (h : s.StartsAlone .d i)
    (hc : (execCheck i (s.withAgent (.unit .d))).1 = true)
    (hf : s.SpiFaultFreeFor ((itemsOf s.cfg i).map Micro.steps).sum) :
    ∃ t, core.run ((itemsOf s.cfg i).map Micro.steps).sum s = .next t ∧
      ((s.afterItems (itemsOf s.cfg i)).mapSeq .d (Seq.complete .ok)).SameSide .d t ∧
      s.SameSide .l t := by
  obtain ⟨m, ms, hlist⟩ := List.exists_cons_of_length_pos (itemsOf_pos s.cfg i)
  have hmu : s.d.mu = 0 := h.atStart
  have hrest : (s.items .d).drop s.d.mu = m :: ms := by
    rw [items_of_current h.current, hlist, hmu, List.drop_zero]
  rw [hlist] at hf ⊢
  exact h.runsAlone.run_items hrest (fun _ => hc) hf

/-! ## The display operations -/

theorem steps_commandItems (op : Byte) (payload : List Byte) :
    ((commandItems op payload).map Micro.steps).sum = payload.length + 9 := by
  simp +arith [commandItems, Micro.steps]

theorem steps_dataItems (payload : List Byte) :
    ((dataItems payload).map Micro.steps).sum = payload.length + 5 := by
  simp +arith [dataItems, Micro.steps]

/-- DISP_CMD's list, run to its end: one command frame, CS deasserted and DC at data (R88, R149). -/
theorem afterItems_commandItems (s : State) (op : Byte) (payload : List Byte) :
    s.afterItems (commandItems op payload) = { s with
      d := { s.d with trace := s.d.trace ++ commandFrame op payload }
      lines := { s.lines with cs := true, dc := true }
      spi := ⟨false, [], payload.length⟩ } := by
  simp [State.afterItems, commandItems, State.afterItem, perform, State.driveLine, State.emit,
    State.mapSeq, State.setSeq, Seq.emit, Lines.drive, commandFrame]

/-- DISP_DATA's list, run to its end: one data frame, CS deasserted and DC at data (R89, R152). -/
theorem afterItems_dataItems (s : State) (payload : List Byte) :
    s.afterItems (dataItems payload) = { s with
      d := { s.d with trace := s.d.trace ++ dataFrame payload }
      lines := { s.lines with cs := true, dc := true }
      spi := ⟨false, [], payload.length⟩ } := by
  simp [State.afterItems, dataItems, State.afterItem, perform, State.driveLine, State.emit,
    State.mapSeq, State.setSeq, Seq.emit, Lines.drive, dataFrame]

/-- Settles O31: DISP_CMD's list, run to its end, and its trace written out. -/
theorem dispCmdSendsACommandFrame : Obligations.DispCmdSendsACommandFrame := by
  intro s op payload h hready hf
  rw [← steps_commandItems op] at hf ⊢
  obtain ⟨t, hrun, hd, hl⟩ := h.run (by simp [execCheck, displayLegal, hready]) hf
  rw [itemsOf, afterItems_commandItems] at hd
  obtain ⟨-, htseq, htlines, htdrv, httf, htspi⟩ := sameSide_d.mp hd
  refine ⟨t, hrun, ?_, htlines, htspi, htdrv.trans hready, httf, hl⟩
  simp [htseq, commandFrame, writeEvents, byteEvents]

/-- Settles O32: DISP_DATA's list, run to its end, and its trace written out. -/
theorem dispDataSendsADataFrame : Obligations.DispDataSendsADataFrame := by
  intro s payload h hready hf
  rw [← steps_dataItems] at hf ⊢
  obtain ⟨t, hrun, hd, hl⟩ := h.run (by simp [execCheck, displayLegal, hready]) hf
  rw [itemsOf, afterItems_dataItems] at hd
  obtain ⟨-, htseq, htlines, htdrv, httf, htspi⟩ := sameSide_d.mp hd
  refine ⟨t, hrun, ?_, htlines, htspi, htdrv.trans hready, httf, hl⟩
  simp [htseq, dataFrame, writeEvents, byteEvents]

end Sys2Proof.Machine
end

section
/-! The lines (R110 to R115): LINE_SET drives one of them, and a display operation's sequencer step
drives CS, DC or, inside DISP_INIT, RST. What such a step leaves alone, PWR above all. -/

namespace Sys2Proof.Machine

/-! ## LINE_SET (R111, R113) -/

/-- Settles O12: LINE_SET is a list of one line write, which passes no check and finishes at once. -/
theorem lineSetDrivesItsLine : Obligations.LineSetDrivesItsLine := by
  intro line v s h0
  have hrun : exec (.lineSet line v) s = .next (itemStep .d 1 (.line line v) s) :=
    runItems_first .d _ [] s h0
  have hd : (s.d.emit (.line line v)).finish 1 = (s.d.emit (.line line v)).complete .ok :=
    if_neg (by simp [h0])
  exact ⟨_, hrun, get_drive_same .., fun k hk => get_drive_of_ne _ _ _ _ hk, hd, rfl⟩

/-! ## The micro-operations of a display operation -/

/-- A micro-operation that the list of the display operation `i` may hold: a write of CS or DC or an
SPI write, and in DISP_INIT also a write of RST or `drv` or a sleep (R141, R143, R150). -/
def Micro.InDisplay (i : Instr) : Micro → Prop
  | .line j _ => j = .cs ∨ j = .dc ∨ j = .rst ∧ i = .dispInit
  | .spi _ => True
  | .sleep _ | .drv _ | .drvReady => i = .dispInit
  | .frame | .tick | .ticker _ | .chase | .wheel => False

theorem itemsOf_inDisplay {i : Instr} (hi : isComposite i = true) (cfg : Config) :
    ∀ m ∈ itemsOf cfg i, m.InDisplay i := by
  cases i <;> simp only [isComposite, Bool.false_eq_true] at hi
  case dispInit =>
    cases hmode : cfg.initResetMode <;>
      simp [itemsOf, initItems, resetPulseItems, hmode, commandItems, Micro.InDisplay]
  case dispCmd op payload => simp [itemsOf, commandItems, Micro.InDisplay]
  case dispData payload => simp [itemsOf, dataItems, Micro.InDisplay]

theorem Micro.InDisplay.actsFor {i : Instr} {m : Micro} (hm : m.InDisplay i) : m.ActsFor .d := by
  cases m with
  | line | spi | drv | drvReady => rfl
  | sleep | tick | ticker => trivial
  | frame | chase | wheel => cases hm

theorem execUnit_display {i : Instr} (hi : isComposite i = true) (s : State) :
    execUnit i s = .d := by
  cases i <;> simp only [isComposite, Bool.false_eq_true] at hi <;> rfl

/-- A display operation is checked against the driver state alone (R142, R144). -/
theorem execCheck_display {i : Instr} (hi : isComposite i = true) (s : State) :
    (execCheck i s).2 = (.protocol, .driver s.drv) := by
  cases i <;> simp only [isComposite, Bool.false_eq_true] at hi <;> rfl

/-- What the sequencer step of a display operation can do: raise PROTOCOL, or run a micro-operation
of its list (R28, R255). -/
theorem exec_display_cases {i : Instr} {s t : State} (hi : isComposite i = true)
    (h : exec i s = .next t) :
    (s.d.mu = 0 ∧ (execCheck i s).1 = false ∧ t = s.raise .d .protocol (.driver s.drv)) ∨
    ((s.d.mu = 0 → (execCheck i s).1 = true) ∧
      ∃ m, (itemsOf s.cfg i)[s.d.mu]? = some m ∧ m.InDisplay i ∧
        t = itemStep .d (itemsOf s.cfg i).length m s) := by
  have hx := exec_next h
  rw [execUnit_display hi, execCheck_display hi] at hx
  exact hx.imp id fun ⟨hk, m, hm, e⟩ =>
    ⟨hk, m, hm, itemsOf_inDisplay hi _ m (List.mem_of_getElem? hm), e⟩

/-! ## What a sequencer step leaves of the machine beside its unit's sequencer -/

section
variable (u : UnitId) (n : Nat) (m : Micro) (s : State)

@[simp] theorem itemStep_lines : (itemStep u n m s).lines = (perform u m s).lines := by
  unfold itemStep; split <;> simp
@[simp] theorem itemStep_drv : (itemStep u n m s).drv = (perform u m s).drv := by
  unfold itemStep; split <;> simp
@[simp] theorem itemStep_tfSinceInit :
    (itemStep u n m s).tfSinceInit = (perform u m s).tfSinceInit := by
  unfold itemStep; split <;> simp
@[simp] theorem itemStep_spi : (itemStep u n m s).spi = (perform u m s).spi := by
  unfold itemStep; split <;> simp
@[simp] theorem perform_choices : (perform u m s).choices = s.choices := by
  cases m <;> simp [perform, State.startSleep, State.startTick]
@[simp] theorem perform_drawn : (perform u m s).drawn = s.drawn := by
  cases m <;> simp [perform, State.startSleep, State.startTick]
@[simp] theorem itemStep_choices : (itemStep u n m s).choices = s.choices := by
  unfold itemStep; split <;> simp
@[simp] theorem itemStep_drawn : (itemStep u n m s).drawn = s.drawn := by
  unfold itemStep; split <;> simp

end

/-- Only a line write moves a line. -/
theorem perform_lines (u : UnitId) {m : Micro} (hm : ∀ j v, m ≠ .line j v) (s : State) :
    (perform u m s).lines = s.lines := by
  cases m with
  | line j v => exact absurd rfl (hm j v)
  | sleep | tick | ticker => exact mapSeq_lines ..
  | spi | drv | drvReady | frame | chase | wheel => rfl

/-- A sequencer step moves no line and adds no event, or drives one line and adds its event
(R40, R111). -/
theorem itemStep_line_event (u : UnitId) (n : Nat) (m : Micro) (s : State) :
    let t := itemStep u n m s
    t.d.trace = s.d.trace ∧ t.lines = s.lines ∨
      ∃ line v, t.d.trace = s.d.trace ++ [Event.line line v] ∧ t.lines = s.lines.drive line v ∧
        t.spi = s.spi := by
  dsimp only
  rw [itemStep_trace_d, itemStep_lines, itemStep_spi]
  cases m with
  | line j v => exact .inr ⟨j, v, rfl, rfl, rfl⟩
  | spi | sleep | drv | drvReady | frame | tick | ticker | chase | wheel =>
    exact .inl ⟨List.append_nil _, perform_lines u (by simp) s⟩

/-! ## What a sequencer step of a display operation leaves alone -/

/-- What unit D's sequencer has kept in a step of the display operation `i` that is no fault: of its
place in the program, `st`, its wait and its trace nothing is said, but that `st` becomes OK and that
only DISP_INIT sets a wait for the timer. -/
structure Seq.DisplayFrame (i : Instr) (q q' : Seq) : Prop where
  prog : q'.prog = q.prog
  ticker : q'.ticker = q.ticker
  refused : q'.refused = q.refused
  fault : q'.fault = q.fault
  st : q'.st = q.st ∨ q'.st = .ok
  pending : i ≠ .dispInit → q'.pending = q.pending

theorem finish_st (q : Seq) (n : Nat) : (q.finish n).st = q.st ∨ (q.finish n).st = .ok := by
  rcases finish_cases q n with ⟨_, e⟩ | ⟨_, e⟩ <;> rw [e]
  · exact .inl rfl
  · exact .inr (advance_st _)

theorem Seq.DisplayFrame.finish {i : Instr} {q q' : Seq} (h : q.DisplayFrame i q') (n : Nat) :
    q.DisplayFrame i (q'.finish n) where
  prog := (finish_prog ..).trans h.prog
  ticker := (finish_ticker ..).trans h.ticker
  refused := (finish_refused ..).trans h.refused
  fault := (finish_fault ..).trans h.fault
  st := (finish_st q' n).elim (fun e => e ▸ h.st) .inr
  pending := fun hi => (finish_pending ..).trans (h.pending hi)

theorem perform_displayFrame {i : Instr} {m : Micro} (hm : m.InDisplay i) (s : State) :
    s.d.DisplayFrame i (perform .d m s).d := by
  cases m with
  | line | spi | drv | drvReady => exact ⟨rfl, rfl, rfl, rfl, .inl rfl, fun _ => rfl⟩
  | sleep ms => exact ⟨rfl, rfl, rfl, rfl, .inl rfl, fun hi => absurd hm hi⟩
  | frame | tick | ticker | chase | wheel => cases hm

theorem itemStep_displayFrame {i : Instr} {m : Micro} (hm : m.InDisplay i) (n : Nat) (s : State) :
    s.d.DisplayFrame i (itemStep .d n m s).d := by
  unfold itemStep
  split
  · exact perform_displayFrame hm s
  · exact (perform_displayFrame hm s).finish n

/-- No display operation drives PWR (R114). -/
theorem perform_display_pwr {i : Instr} {m : Micro} (hm : m.InDisplay i) (s : State) :
    (perform .d m s).lines.pwr = s.lines.pwr := by
  cases m with
  | line j v => rcases hm with rfl | rfl | ⟨rfl, _⟩ <;> rfl
  | spi | sleep | drv | drvReady => rfl
  | frame | tick | ticker | chase | wheel => cases hm

/-- RST and the driver's state are DISP_INIT's (R140, R141). -/
theorem perform_display_driver {i : Instr} {m : Micro} (hm : m.InDisplay i) (hi : i ≠ .dispInit)
    (s : State) : (perform .d m s).lines.rst = s.lines.rst ∧ (perform .d m s).drv = s.drv ∧
      (perform .d m s).tfSinceInit = s.tfSinceInit := by
  cases m with
  | line j v =>
    rcases hm with rfl | rfl | ⟨_, hinit⟩
    · exact ⟨rfl, rfl, rfl⟩
    · exact ⟨rfl, rfl, rfl⟩
    · exact absurd hinit hi
  | spi => exact ⟨rfl, rfl, rfl⟩
  | sleep | drv | drvReady => exact absurd hm hi
  | frame | tick | ticker | chase | wheel => cases hm

/-- Settles O36: PROTOCOL has no other effect, and each micro-operation of the lists has its frame. -/
theorem displayOperationsFrame : Obligations.DisplayOperationsFrame := by
  intro i s t hi h
  rcases exec_display_cases hi h with ⟨_, _, rfl⟩ | ⟨_, m, _, hm, rfl⟩
  · have hby := haltedBy_raise (s := s) (code := .protocol) rfl .d (.driver s.drv)
    have hst : (s.raise .d .protocol (.driver s.drv)).d.st = s.d.st := by
      simpa using congrArg Seq.st hby.1
    exact ⟨rfl, rfl, rfl, rfl, rfl, raise_prog .., raise_ticker .., raise_refused .., .inl hst,
      fun _ => ⟨rfl, rfl, rfl, raise_pending ..⟩, .inl ⟨raise_trace .., rfl⟩, .inr hby⟩
  · obtain ⟨hprog, hticker, hrefused, hfault, hst, hpending⟩ :=
      itemStep_displayFrame hm (itemsOf s.cfg i).length s
    refine ⟨itemStep_otherSide hm.actsFor .., ?_, itemStep_draw .., itemStep_choices ..,
      itemStep_drawn .., hprog, hticker, hrefused, hst, fun hne => ?_, itemStep_line_event ..,
      .inl hfault⟩
    · rw [itemStep_lines, perform_display_pwr hm]
    · obtain ⟨hrst, hdrv, htf⟩ := perform_display_driver hm hne s
      rw [itemStep_lines, itemStep_drv, itemStep_tfSinceInit]
      exact ⟨hrst, hdrv, htf, hpending hne⟩

/-! ## Which step changes PWR (R114) -/

theorem perform_pwr_ne {u : UnitId} {m : Micro} {s : State}
    (h : (perform u m s).lines.pwr ≠ s.lines.pwr) :
    m = .line .pwr (perform u m s).lines.pwr := by
  by_cases hl : ∃ j v, m = .line j v
  · obtain ⟨j, v, rfl⟩ := hl
    cases j with
    | pwr => rfl
    | cs | dc | rst => exact absurd rfl h
  · rw [perform_lines u (fun j v e => hl ⟨j, v, e⟩)] at h
    exact absurd rfl h

/-- Only LINE_SET PWR has a write of PWR in its list. -/
theorem pwr_item {cfg : Config} {i : Instr} {k : Nat} {v : Level}
    (h : (itemsOf cfg i)[k]? = some (.line .pwr v)) : i = .lineSet .pwr v := by
  have hmem := List.mem_of_getElem? h
  by_cases hi : isComposite i = true
  · simpa [Micro.InDisplay] using itemsOf_inDisplay hi cfg _ hmem
  · cases i
    case lineSet j x => simpa [itemsOf, eq_comm] using hmem
    case dispInit | dispCmd | dispData => exact absurd rfl hi
    all_goals simp [itemsOf] at hmem

theorem unitStep_pwr {s t : State} {u : UnitId} (h : s.unitStep u = .next t)
    (hp : t.lines.pwr ≠ s.lines.pwr) : s.current u = some (.lineSet .pwr t.lines.pwr) := by
  rcases unitStep_next h with ⟨i, hc, hi⟩ | ⟨op, _, _, rfl⟩ | ⟨op, _, _, rfl⟩
  · rcases exec_next hi with ⟨_, _, rfl⟩ | ⟨_, m, hm, rfl⟩
    · exact absurd (congrArg Lines.pwr (mapSeq_lines ..)) hp
    · rw [itemStep_lines] at hp ⊢
      rw [perform_pwr_ne hp] at hm
      exact hc.trans (congrArg some (pwr_item hm))
  · exact absurd (congrArg Lines.pwr (mapSeq_lines ..)) hp
  · exact absurd (congrArg Lines.pwr (mapSeq_lines ..)) hp

/-- The SPI channel's step moves CS alone, after a failed write (R146). -/
theorem spiStep_pwr (s : State) : s.spiStep.lines.pwr = s.lines.pwr := by
  rcases spiStep_cases s with ⟨_, e⟩ | ⟨_, b, rest, _, e⟩ | ⟨_, _, e⟩ <;> rw [e]
  · rw [spiFail_eq]
    split <;> rfl
  · rfl
  · rw [spiComplete_eq]

theorem timerStep_lines (s : State) (u : UnitId) : (s.timerStep u).lines = s.lines := by
  cases hp : (s.seq u).pending with
  | none => rw [timerStep_of_none hp]
  | some p => rw [timerStep_eq hp, mapSeq_lines]

/-- PWR changes in a sequencer step of LINE_SET PWR alone, which is unit D's (R84, R114). -/
theorem agentStep_pwr {s t : State} {a : Agent} (h : s.agentStep a = .next t)
    (hp : t.lines.pwr ≠ s.lines.pwr) :
    a = .unit .d ∧ s.current .d = some (.lineSet .pwr t.lines.pwr) := by
  cases a with
  | unit u =>
    have hc := unitStep_pwr h hp
    cases u with
    | d => exact ⟨rfl, hc⟩
    | l => cases current_allows hc
  | spi => exact absurd (Host.Outcome.next.inj h ▸ spiStep_pwr s) hp
  | pulse =>
    obtain ⟨_, _, hlines, _⟩ := sameSide_d.mp (pulseStep_otherSide s)
    exact absurd (congrArg Lines.pwr (Host.Outcome.next.inj h ▸ hlines)) hp
  | timer u =>
    exact absurd (congrArg Lines.pwr (Host.Outcome.next.inj h ▸ timerStep_lines s u)) hp

/-! ## No display operation reads PWR (R114) -/

/-- The machine with PWR at another level. -/
def State.setPwr (v : Level) (s : State) : State := { s with lines := { s.lines with pwr := v } }

theorem execCheck_setPwr {i : Instr} (hi : isComposite i = true) (v : Level) (s : State) :
    execCheck i (s.setPwr v) = execCheck i s := by
  cases i <;> simp only [isComposite, Bool.false_eq_true] at hi <;> rfl

theorem perform_setPwr {i : Instr} {m : Micro} (hm : m.InDisplay i) (v : Level) (s : State) :
    perform .d m (s.setPwr v) = (perform .d m s).setPwr v := by
  cases m with
  | line j x => rcases hm with rfl | rfl | ⟨rfl, _⟩ <;> rfl
  | spi | sleep | drv | drvReady => rfl
  | frame | tick | ticker | chase | wheel => cases hm

theorem itemStep_setPwr {i : Instr} {m : Micro} (hm : m.InDisplay i) (n : Nat) (v : Level)
    (s : State) : itemStep .d n m (s.setPwr v) = (itemStep .d n m s).setPwr v := by
  unfold itemStep
  rw [perform_setPwr hm]
  split <;> rfl

theorem exec_setPwr {i : Instr} {s t : State} (hi : isComposite i = true) (h : exec i s = .next t)
    (v : Level) : exec i (s.setPwr v) = .next (t.setPwr v) := by
  have hu := execUnit_display hi (s.setPwr v)
  have hck := execCheck_setPwr hi v s
  rcases exec_display_cases hi h with ⟨h0, hf, rfl⟩ | ⟨hp, m, hm, hmd, rfl⟩
  · rw [exec_of_check_fails (by rwa [hu]) (by rwa [hck]), hu, hck, execCheck_display hi]
    rfl
  · rw [exec_of_item (m := m) (by rwa [hu, hck]) (by rwa [hu]), hu, ← itemStep_setPwr hmd]
    rfl

/-- Settles O55: of all agents' steps only LINE_SET PWR's changes PWR, and a display operation's
step commutes with setting it. -/
theorem onlyLineSetDrivesPwr : Obligations.OnlyLineSetDrivesPwr := by
  refine ⟨fun s t hst hp => ?_, fun i s t v hi h => ⟨?_, exec_setPwr hi h v⟩⟩
  · obtain ⟨a, r, hm, hr, rfl⟩ := step_cases hst
    rw [nextDraw_lines] at hp ⊢
    obtain ⟨rfl, hc⟩ := agentStep_pwr hr hp
    exact ⟨hm, hc⟩
  · obtain ⟨_, hpwr, _⟩ := displayOperationsFrame i s t hi h
    exact hpwr

end Sys2Proof.Machine
end

section
/-! The SPI channel and the timer as agents (R121 to R127, R191, R197): how a raw write starts, what
each step of the channel and the timer leaves, and that the channel's fault step alone records a
transmit fault (R252). -/

namespace Sys2Proof.Machine

/-! ## Starting a raw write -/

/-- The frame check of a raw write (R122, R126). -/
theorem frameOpen_iff {bytes : List Byte} {lines : Lines} :
    frameOpen bytes lines = true ↔ (bytes ≠ [] → lines.cs = Config.csActive) := by
  simp [frameOpen, imp_iff_not_or]

/-- Settles O13: the frame check passes, and the list's one micro-operation starts the channel. -/
theorem spiWriteStarts : Obligations.SpiWriteStarts := by
  intro bytes s h0 hcs
  exact exec_of_item (i := .spiWrite bytes) (m := .spi bytes) (fun _ => frameOpen_iff.mpr hcs)
    (by simp [execUnit, itemsOf, h0])

/-- Settles O21: the frame check fails and its fault halts unit D; in a display operation the line
writes before a write have asserted CS. -/
theorem rawWriteNeedsChipSelect : Obligations.RawWriteNeedsChipSelect := by
  refine ⟨fun bytes s h0 hne hcs => ?_, fun s i bytes h hrun hc hcomp hm => ?_⟩
  · have hclosed : frameOpen bytes s.lines = false :=
      Bool.eq_false_iff.mpr fun ho => hcs (frameOpen_iff.mp ho hne)
    exact ⟨_, exec_of_check_fails (i := .spiWrite bytes) h0 hclosed, haltedBy_raise rfl .d _⟩
  · have hi := items_of_current hc
    refine h.linesDriven (by simp [hrun]) .cs _ ?_
    rw [hi] at hm ⊢
    exact spi_item_cs hcomp hm

/-! ## The steps of the SPI channel -/

/-- A step of the machine in which the SPI channel moves is the channel's step on unit D's side, and
leaves unit L's (R27). -/
theorem step_spi {s : State} (h : s.mover = some .spi) :
    ∃ t, step s = .next t ∧ s.spiStep.SameSide .d t ∧ s.SameSide .l t := by
  have hst := step_of_agentStep h (r := (s.withAgent .spi).spiStep) rfl
  have hd : s.spiStep.SameSide .d (s.withAgent .spi).spiStep :=
    spiStep_sameSide rfl (sameSide_withAgent .d s .spi)
  exact ⟨_, hst, hd.trans (sameSide_nextDraw ..), step_otherSide h (by decide) hst⟩

theorem spiStep_of_fault {s : State} (hf : s.draw.spiFault = true) : s.spiStep = s.spiFail := by
  simp [State.spiStep, hf]

theorem spiStep_of_end {s : State} (hf : s.draw.spiFault = false) (hq : s.spi.q = []) :
    s.spiStep = { s with
      spi := ⟨false, [], s.spi.sent⟩
      d := (s.d.emit (.spiEnd s.spi.sent .ok)).wake (s.items .d).length } := by
  simp [State.spiStep, hf, hq, spiComplete_eq]

/-- A raw write has no fault path: the channel is released and the fault is raised (R127). -/
theorem spiFail_of_spiWrite {s : State} {bytes : List Byte}
    (h : s.current .d = some (.spiWrite bytes)) :
    s.spiFail = s.spiReleased.raise .d .transmitFault (.transfer s.d.mu s.spi.sent) := by
  rw [spiFail_eq, h]
  rfl

/-- The two outcomes of a TRANSMIT_FAULT, with its record written out (R250, R256). -/
theorem raise_transmit_of_halts {cfg : Config} (h : cfg.onTransmitFault = .halts) (u : UnitId)
    (info : FaultInfo) (q : Seq) : q.raise cfg u .transmitFault info =
      { q with
        run := .halted
        fault := some (q.fault.getD ⟨.transmitFault, u, q.pc, q.mu, info⟩) } := by
  rw [raise_of_halts (by simp [FaultCode.halts, h]), record_eq]

theorem raise_transmit_of_continues {cfg : Config} (h : cfg.onTransmitFault = .continues)
    (u : UnitId) (info : FaultInfo) (q : Seq) : q.raise cfg u .transmitFault info =
      ({ q with
        fault := some (q.fault.getD ⟨.transmitFault, u, q.pc, q.mu, info⟩) } : Seq).complete
        .transmitFault := by
  rw [raise_transmit_continues h, record_eq]

/-! ## A raw write of no bytes -/

/-- The step that ends a raw write with no byte left to send, with either result (R124, R125). -/
theorem spiStep_ends_spiWrite {s : State} {bytes : List Byte}
    (hc : s.current .d = some (.spiWrite bytes)) (hq : s.spi.q = []) :
    s.spiStep.spi = ⟨false, [], s.spi.sent⟩ ∧ s.spiStep.lines = s.lines ∧
      (∀ w, s.spiStep.d.run ≠ .waiting w) ∧
      s.spiStep.d.trace = s.d.trace ++
        [.spiEnd s.spi.sent (if s.draw.spiFault then .transmitFault else .ok)] := by
  cases hf : s.draw.spiFault with
  | true =>
    rw [spiStep_of_fault hf, spiFail_of_spiWrite hc]
    exact ⟨rfl, rfl, raise_transmit_run_ne rfl _ _ _, raise_trace ..⟩
  | false =>
    rw [spiStep_of_end hf hq]
    exact ⟨rfl, rfl, wake_run_ne _ _, wake_trace ..⟩

/-- Settles O22: the issue step, then the channel's end step with its drawn result. -/
theorem emptyWriteIsPerformed : Obligations.EmptyWriteIsPerformed := by
  intro s c rest h hch
  obtain ⟨m, hsm, hmd, hml⟩ := step_spiWrite h (absurd rfl)
  have hmw : m.WritesAlone := (writesAlone_startSpi h []).congr hmd hml
  have hdraw : m.draw = c := (step_takes_draw hsm hch).1
  have hcur : m.current .d = some (.spiWrite []) := hmd.current_eq.trans h.current
  obtain ⟨-, hd, hlines, -, -, hspi⟩ := sameSide_d.mp hmd
  obtain ⟨t, hmt, htd, -⟩ := step_spi hmw.mover
  obtain ⟨-, htseq, htlines, -, -, htspi⟩ := sameSide_d.mp htd
  obtain ⟨hend, hkeep, hrun, htrace⟩ := spiStep_ends_spiWrite hcur (congrArg Spi.q hspi)
  rw [hspi] at hend htrace
  rw [hd, hdraw] at htrace
  exact ⟨m, t, hsm, hd, hspi, hlines, hmt, htspi.trans hend, htlines.trans (hkeep.trans hlines),
    htseq ▸ hrun _, htseq ▸ htrace⟩

/-! ## Runs without the fault step -/

/-- From `s` to `t` no write of unit D ends in a fault, and `tf_since_init` is not set. -/
structure State.NoSpiFaultTo (s t : State) : Prop where
  ends : ∀ n, Event.spiEnd n .transmitFault ∈ t.d.trace → Event.spiEnd n .transmitFault ∈ s.d.trace
  tfSinceInit : t.tfSinceInit = true → s.tfSinceInit = true

theorem State.NoSpiFaultTo.trans {s t r : State} (h : s.NoSpiFaultTo t) (h' : t.NoSpiFaultTo r) :
    s.NoSpiFaultTo r :=
  ⟨fun n hn => h.ends n (h'.ends n hn), fun htf => h.tfSinceInit (h'.tfSinceInit htf)⟩

theorem noSpiFaultTo_of_append {s t : State} {es : List Event} (htr : t.d.trace = s.d.trace ++ es)
    (hes : ∀ n, Event.spiEnd n .transmitFault ∉ es)
    (htf : t.tfSinceInit = true → s.tfSinceInit = true) : s.NoSpiFaultTo t where
  ends := fun n hn => (List.mem_append.mp (htr ▸ hn)).resolve_right (hes n)
  tfSinceInit := htf

theorem noSpiFaultTo_of_sameSide {s t : State} (h : s.SameSide .d t) : s.NoSpiFaultTo t := by
  obtain ⟨-, hd, -, -, htf, -⟩ := sameSide_d.mp h
  exact ⟨fun n hn => hd ▸ hn, fun ht => htf ▸ ht⟩

theorem noSpiFaultTo_mapSeq {u : UnitId} {f : Seq → Seq} {s : State}
    (hf : (f (s.seq u)).trace = (s.seq u).trace) : s.NoSpiFaultTo (s.mapSeq u f) :=
  noSpiFaultTo_of_append (es := []) ((mapSeq_trace_d hf).trans (List.append_nil _).symm) (by simp)
    fun ht => mapSeq_tfSinceInit s u f ▸ ht

theorem spiEnd_notMem_events (m : Micro) (n : Nat) (r : SpiResult) :
    Event.spiEnd n r ∉ m.events := by cases m <;> simp [Micro.events]

/-- The last micro-operation of DISP_INIT clears `tf_since_init`; no other writes it (R141). -/
theorem tfSinceInit_of_perform {u : UnitId} {m : Micro} {s : State}
    (h : (perform u m s).tfSinceInit = true) : s.tfSinceInit = true := by
  cases m with
  | drvReady => cases h
  | sleep | tick | ticker => simpa [perform, State.startSleep, State.startTick] using h
  | line | spi | drv | frame | chase | wheel => exact h

theorem noSpiFaultTo_unitStep {s t : State} {u : UnitId} (h : s.unitStep u = .next t) :
    s.NoSpiFaultTo t := by
  rcases unitStep_next h with ⟨i, _, hi⟩ | ⟨op, _, _, rfl⟩ | ⟨op, _, _, rfl⟩
  · rcases exec_next hi with ⟨_, _, rfl⟩ | ⟨_, m, _, rfl⟩
    · exact noSpiFaultTo_mapSeq (raise_trace ..)
    · exact noSpiFaultTo_of_append (itemStep_trace_d ..) (spiEnd_notMem_events m · _)
        fun ht => tfSinceInit_of_perform (itemStep_tfSinceInit .. ▸ ht)
  · exact noSpiFaultTo_mapSeq (raise_trace ..)
  · exact noSpiFaultTo_mapSeq (seqRefuse_trace _)

theorem noSpiFaultTo_spiStep {s : State} (hf : s.draw.spiFault = false) :
    s.NoSpiFaultTo s.spiStep := by
  rcases spiStep_cases s with ⟨hf', _⟩ | ⟨_, b, rest, _, e⟩ | ⟨_, _, e⟩
  · simp [hf] at hf'
  · rw [e]
    exact noSpiFaultTo_of_append (es := [.byte b s.lines.cs s.lines.dc]) rfl (by simp) id
  · rw [e, spiComplete_eq]
    exact noSpiFaultTo_of_append (es := [.spiEnd s.spi.sent .ok]) (wake_trace ..) (by simp) id

theorem noSpiFaultTo_timerStep (s : State) (u : UnitId) : s.NoSpiFaultTo (s.timerStep u) := by
  cases u with
  | l => exact noSpiFaultTo_of_sameSide (timerStep_otherSide s .l)
  | d =>
    cases hp : s.d.pending with
    | none => rw [timerStep_of_none (u := .d) hp]; exact noSpiFaultTo_of_sameSide (.refl ..)
    | some p =>
      rw [timerStep_eq (u := .d) hp]
      cases p <;> exact noSpiFaultTo_of_append (es := [_]) (wake_trace ..) (by simp) id

/-- Every step but the SPI channel's fault step (R125). -/
theorem noSpiFaultTo_step {s t : State} (hno : s.NoSpiFaultNow) (h : step s = .next t) :
    s.NoSpiFaultTo t := by
  obtain ⟨a, r, hm, hr, rfl⟩ := step_cases h
  have hstep : (s.withAgent a).NoSpiFaultTo r := by
    cases a with
    | unit u => exact noSpiFaultTo_unitStep hr
    | spi => exact Host.Outcome.next.inj hr ▸ noSpiFaultTo_spiStep (hno hm)
    | pulse =>
      exact Host.Outcome.next.inj hr ▸ noSpiFaultTo_of_sameSide (pulseStep_otherSide _)
    | timer u => exact Host.Outcome.next.inj hr ▸ noSpiFaultTo_timerStep _ u
  exact ((noSpiFaultTo_of_sameSide (sameSide_withAgent .d s a)).trans hstep).trans
    (noSpiFaultTo_of_sameSide (sameSide_nextDraw .d r))

theorem noSpiFaultTo_of_reaches {s t : State} (hf : s.SpiFaultFree) (h : Reaches s t) :
    s.NoSpiFaultTo t := by
  induction h with
  | refl => exact noSpiFaultTo_of_sameSide (.refl ..)
  | tail hsb hbt ih => exact ih.trans (noSpiFaultTo_step (hf _ hsb) hbt)

/-! ## A fault in a raw write -/

/-- A busy channel has sent the first `sent` bytes of the raw write unit D is at (R123, R125). -/
theorem rawWrite_sent_prefix {s : State} {bytes : List Byte} (h : s.Inv) (hb : s.spi.busy = true)
    (hc : s.current .d = some (.spiWrite bytes)) :
    s.spi.sent ≤ bytes.length ∧ s.spi.q = bytes.drop s.spi.sent := by
  obtain ⟨sent, hitem, hlen⟩ := h.spiWrite hb
  rw [items_of_current hc] at hitem
  obtain ⟨e, -⟩ := noncomposite_spi rfl hitem
  obtain rfl := Instr.spiWrite.inj e
  simp [← hlen]

/-- Settles O26: the channel's fault step outside a display operation, the invariant's prefix, and
an induction over the run. -/
theorem rawWriteFault : Obligations.RawWriteFault := by
  refine ⟨fun s bytes hm hf hc => ?_, fun s bytes h hb hc => rawWrite_sent_prefix h hb hc,
    fun s t hfree hst => ?_⟩
  · obtain ⟨t, hst, htd, htl⟩ := step_spi hm
    rw [spiStep_of_fault hf, spiFail_of_spiWrite hc] at htd
    obtain ⟨-, hseq, hlines, hdrv, htf, hspi⟩ := sameSide_d.mp htd
    refine ⟨t, hst, hlines, htf, hdrv, hspi, htl, ?_⟩
    rw [hseq, State.raise, mapSeq_d_d]
    cases hp : s.cfg.onTransmitFault with
    | halts => exact raise_transmit_of_halts hp ..
    | continues => exact raise_transmit_of_continues hp ..
  · obtain ⟨hends, htf⟩ := noSpiFaultTo_of_reaches hfree hst
    exact ⟨hends, htf⟩

/-! ## The steps of the timer -/

/-- A step in which the timer ends a unit's wait writes that unit's sequencer alone. -/
theorem step_timer {s : State} {u : UnitId} {p : Pending} (h : s.mover = some (.timer u))
    (hp : (s.seq u).pending = some p) : ∃ t, step s = .next t ∧ s.SameBut u t ∧
      t.seq u = ((s.seq u).ended p).wake (s.items u).length := by
  refine ⟨_, step_of_agentStep h rfl, ?_⟩
  rw [timerStep_eq (p := p) (by simpa using hp), (sameSide_withAgent u s _).items_eq]
  refine ⟨?_, by simp⟩
  simpa [State.SameBut] using mapSeq_sameBut u _ (s.withAgent (.timer u))

/-- Settles O29: each agent's step in its one form. -/
theorem agentsCompleteTheirWork : Obligations.AgentsCompleteTheirWork := by
  refine ⟨fun s b rest hm hf hq => ?_, fun s hm hf hq => ?_, fun s u hm => ⟨fun ms hp => ?_,
    fun hp => ?_⟩⟩
  · obtain ⟨t, hst, htd, htl⟩ := step_spi hm
    rw [spiStep_of_cons hf hq] at htd
    obtain ⟨-, hd, hlines, hdrv, htf, hspi⟩ := sameSide_d.mp htd
    exact ⟨t, hst, hspi, hd, hlines, hdrv, htf, htl⟩
  · obtain ⟨t, hst, htd, htl⟩ := step_spi hm
    rw [spiStep_of_end hf hq] at htd
    obtain ⟨-, hd, hlines, hdrv, htf, hspi⟩ := sameSide_d.mp htd
    exact ⟨t, hst, hspi, hd, hlines, hdrv, htf, htl⟩
  · exact step_timer hm hp
  · exact step_timer hm hp

end Sys2Proof.Machine
end

section
/-! The display protocol (R140 to R155): which starts of a display operation are legal and what they
do, a transmit fault inside one, a whole DISP_INIT, and who moves the driver state. -/

namespace Sys2Proof.Machine

/-! ## Legality (R142, R144) -/

theorem initLegal_iff {drv : Driver} {tf : Bool} :
    initLegal drv tf = true ↔ drv = .uninitialized ∨ drv = .ready ∧ tf = true := by
  cases drv <;> simp [initLegal]

theorem displayLegal_iff {drv : Driver} : displayLegal drv = true ↔ drv = .ready := beq_iff_eq

/-- A display operation that is not legal halts unit D at its start with PROTOCOL and no other effect
(R255, R256). -/
theorem exec_display_halts {i : Instr} {s : State} (hi : isComposite i = true) (h0 : s.d.mu = 0)
    (hc : ¬ (execCheck i s).1 = true) :
    ∃ t, exec i s = .next t ∧ s.HaltedBy .d .protocol (.driver s.drv) t := by
  have hu := execUnit_display hi s
  refine ⟨_, exec_of_check_fails (by rwa [hu]) (Bool.eq_false_iff.mpr hc), ?_⟩
  rw [hu, execCheck_display hi]
  exact haltedBy_raise rfl .d _

/-- A display operation that is legal runs the first micro-operation of its list and goes on to the
second (R28, R30). -/
theorem exec_display_starts {i : Instr} {s : State} {m m' : Micro} {ms : List Micro}
    (hi : isComposite i = true) (h0 : s.d.mu = 0) (hc : (execCheck i s).1 = true)
    (hlist : itemsOf s.cfg i = m :: m' :: ms) (hw : m.wait = none) :
    exec i s = .next ((perform .d m s).mapSeq .d (Seq.setMu 1)) := by
  have hu := execUnit_display hi s
  have hmu : (perform .d m s).d.mu = 0 := (perform_mu .d .d m s).trans h0
  have hfin : (perform .d m s).d.finish (m :: m' :: ms).length = (perform .d m s).d.setMu 1 := by
    rw [Seq.finish, if_pos (by simp [hmu]), hmu, Seq.setMu]
  rw [exec_of_item (m := m) (fun _ => hc) (by simp [hu, h0, hlist]), hu, hlist, itemStep,
    if_neg (by simp [hw]), State.mapSeq, seq_d, hfin]
  rfl

/-- The first of DISP_INIT's micro-operations is followed by another in either reset mode (R141). -/
theorem initItems_starts (cfg : Config) :
    ∃ m ms, initItems cfg = .drv .initializing :: m :: ms := by
  cases hmode : cfg.initResetMode <;> simp [initItems, resetPulseItems, hmode]

/-- Settles O14: each operation passes its check and runs the head of its list. -/
theorem displayOperationsStart : Obligations.DisplayOperationsStart := by
  refine ⟨fun s h0 hl => ?_, fun op payload s h0 hr => ?_, fun payload s h0 hr => ?_⟩
  · obtain ⟨m, ms, hlist⟩ := initItems_starts s.cfg
    exact exec_display_starts (i := .dispInit) rfl h0 (initLegal_iff.mpr hl) hlist rfl
  · exact exec_display_starts (i := .dispCmd op payload) rfl h0 (displayLegal_iff.mpr hr) rfl rfl
  · exact exec_display_starts (i := .dispData payload) rfl h0 (displayLegal_iff.mpr hr) rfl rfl

/-- Outside an operation the driver is not initializing (R140). -/
theorem drv_ne_of_boundary {s : State} (h : s.Inv) (h0 : s.d.mu = 0 ∨ s.d.run = .halted) :
    s.drv ≠ .initializing := by
  intro hd
  obtain ⟨-, hmu, hrun⟩ := h.initializing.mp hd
  exact h0.elim hmu.ne' hrun

/-- Settles O23: the check of R142 both ways, and the invariant at an operation's start. -/
theorem initLegality : Obligations.InitLegality := by
  refine ⟨fun s h0 => ⟨fun hl => displayOperationsStart.1 s h0 hl, fun hl => ?_⟩,
    fun s h _ h0 => drv_ne_of_boundary h (.inl h0)⟩
  exact exec_display_halts (i := .dispInit) rfl h0 fun hc => hl (initLegal_iff.mp hc)

/-- A micro-operation of a display operation does not halt unit D. -/
theorem perform_display_run {i : Instr} {m : Micro} (hm : m.InDisplay i) {s : State}
    (hr : s.d.run = .running) : (perform .d m s).d.run ≠ .halted := by
  cases m with
  | line | drv | drvReady => exact fun h => Run.noConfusion (hr.symm.trans h)
  | spi | sleep => exact Run.noConfusion
  | frame | tick | ticker | chase | wheel => cases hm

theorem itemStep_display_run {i : Instr} {m : Micro} (hm : m.InDisplay i) (n : Nat) {s : State}
    (hr : s.d.run = .running) : (itemStep .d n m s).d.run ≠ .halted := by
  have hp := perform_display_run hm hr
  unfold itemStep
  split
  · exact hp
  · rcases finish_run (perform .d m s).d n with e | e
    · exact fun h => hp (e.symm.trans h)
    · exact fun h => Run.noConfusion (e.symm.trans h)

/-- Settles O24: the check of R144 both ways, and DISP_INIT's own list, in which no
micro-operation is checked. -/
theorem displayNeedsReady : Obligations.DisplayNeedsReady := by
  obtain ⟨-, hcmd, hdata⟩ := displayOperationsStart
  refine ⟨fun i s hi h0 => ?_, fun s hr hmu hlt => ?_⟩
  · rcases hi with ⟨op, payload, rfl⟩ | ⟨payload, rfl⟩
    · exact ⟨fun hn => exec_display_halts (i := .dispCmd op payload) rfl h0
        fun hc => hn (displayLegal_iff.mp hc), fun hr => ⟨_, hcmd op payload s h0 hr, rfl, rfl, rfl⟩⟩
    · exact ⟨fun hn => exec_display_halts (i := .dispData payload) rfl h0
        fun hc => hn (displayLegal_iff.mp hc), fun hr => ⟨_, hdata payload s h0 hr, rfl, rfl, rfl⟩⟩
  · have hm := itemsOf_inDisplay (i := .dispInit) rfl s.cfg _ (List.getElem_mem hlt)
    exact ⟨_, exec_display_item rfl hmu (List.getElem?_eq_getElem hlt),
      itemStep_display_run hm _ hr, (itemStep_displayFrame hm _ s).fault⟩

/-! ## A transmit fault (R146, R147) -/

theorem afterFault_eq (drv : Driver) :
    drv.afterFault = if drv = .initializing then .uninitialized else drv := by cases drv <;> rfl

/-- In a display operation the channel is released, the fault path taken and the fault raised
(R127, R146). -/
theorem spiFail_of_display {s : State} {i : Instr} (hc : s.current .d = some i)
    (hi : isComposite i = true) : s.spiFail =
      s.spiReleased.faultPath.raise .d .transmitFault (.transfer s.d.mu s.spi.sent) := by
  rw [spiFail_eq, hc, Option.any_some, if_pos hi]

/-- Settles O25: the channel's fault step in a display operation, its fault raised either way. -/
theorem compositeFaultPath : Obligations.CompositeFaultPath := by
  intro s i hm hf hc hi
  obtain ⟨t, hst, htd, htl⟩ := step_spi hm
  rw [spiStep_of_fault hf, spiFail_of_display hc hi] at htd
  obtain ⟨-, hseq, hlines, hdrv, htf, hspi⟩ := sameSide_d.mp htd
  refine ⟨t, hst, hlines, htf, hdrv.trans (afterFault_eq s.drv), hspi, htl, ?_⟩
  have htrace : s.spiReleased.faultPath.d.trace = s.d.trace ++
      [Event.spiEnd s.spi.sent .transmitFault, .line .cs s.draw.csLevel] := List.append_assoc ..
  have hd : s.spiReleased.faultPath.d = { s.d with
      run := .running
      trace := s.d.trace ++
        [Event.spiEnd s.spi.sent .transmitFault, .line .cs s.draw.csLevel] } := by
    rw [← htrace]
    rfl
  rw [hseq, State.raise, mapSeq_d_d, hd]
  cases hp : s.cfg.onTransmitFault with
  | halts => exact raise_transmit_of_halts hp ..
  | continues => exact raise_transmit_of_continues hp ..

/-- While the SPI channel works for a DISP_INIT the driver is initializing: a write is not the first
micro-operation of the list (R140, R141). -/
theorem initializing_of_busy {s : State} (h : s.Inv) (hb : s.spi.busy = true)
    (hc : s.current .d = some .dispInit) : s.drv = .initializing := by
  have hw : s.d.run = .waiting .spiDone := (h.unit .d).spiWait.mpr ⟨rfl, hb⟩
  refine h.initializing.mpr ⟨hc, Nat.pos_of_ne_zero fun h0 => ?_, by simp [hw]⟩
  obtain ⟨_, hitem, -⟩ := h.spiWrite hb
  rw [items_of_current hc, h0] at hitem
  cases (init_zero s.cfg).symm.trans hitem

/-- The last step of DISP_INIT completes it with the driver ready (R141, R154). -/
theorem exec_dispInit_last {s : State} (hlast : s.d.mu + 1 = (itemsOf s.cfg .dispInit).length) :
    exec .dispInit s =
      .next { s with drv := .ready, tfSinceInit := false, d := s.d.complete .ok } := by
  have hlen : 2 ≤ (itemsOf s.cfg .dispInit).length := init_length s.cfg
  have hm : (itemsOf s.cfg .dispInit)[s.d.mu]? = some .drvReady := by
    rw [show s.d.mu = (itemsOf s.cfg .dispInit).length - 1 by omega]
    exact init_last s.cfg
  have hfin : s.d.finish (itemsOf s.cfg .dispInit).length = s.d.complete .ok :=
    if_neg (Nat.not_lt.mpr hlast.ge)
  rw [exec_display_item rfl (by omega) hm, ← hfin]
  rfl

/-- Settles O27: the fault step of O25 leaves a driver state that R142 admits, and the last step of
DISP_INIT one that it does not. -/
theorem reinitialization : Obligations.Reinitialization := by
  refine ⟨fun s t i h hm hf hc hi hst => ?_, fun s t _ hlast hex => ?_⟩
  · obtain ⟨t', hst', -, htf, hdrv, -, -, hd⟩ := compositeFaultPath s i hm hf hc hi
    obtain rfl : t' = t := Host.Outcome.next.inj (hst'.symm.trans hst)
    refine ⟨?_, ?_, fun hrun => ?_⟩
    · rw [hdrv]
      cases hs : s.drv with
      | uninitialized | initializing => exact .inl rfl
      | ready => exact .inr ⟨rfl, htf⟩
    · rintro rfl
      rw [hdrv, if_pos (initializing_of_busy h (mover_enabled hm) hc)]
    · cases hp : s.cfg.onTransmitFault with
      | continues => rfl
      | halts =>
        rw [hp] at hd
        exact absurd (congrArg Seq.run hd) hrun
  · obtain rfl := Host.Outcome.next.inj ((exec_dispInit_last hlast).symm.trans hex)
    exact ⟨rfl, rfl, exec_display_halts (i := .dispInit) rfl (complete_mu ..) (by
      simp [execCheck, initLegal])⟩

/-! ## A whole DISP_INIT (R154, R155) -/

theorem steps_initItems (cfg : Config) : ((initItems cfg).map Micro.steps).sum =
    if cfg.initResetMode = .pulse then 17 else 14 := by
  cases hmode : cfg.initResetMode <;>
    simp [initItems, resetPulseItems, hmode, commandItems, Micro.steps]

theorem afterItems_append (s : State) (ms ms' : List Micro) :
    s.afterItems (ms ++ ms') = (s.afterItems ms).afterItems ms' := List.foldl_append

/-- DISP_INIT's list, run to its end: the bring-up trace, the lines as R154 lists them, and the
driver ready. -/
theorem afterItems_initItems {s : State} (hp : s.d.pending = none) :
    s.afterItems (initItems s.cfg) = { s with
      d := { s.d with trace := s.d.trace ++ bringUpEvents s.cfg }
      lines := { s.lines with cs := true, dc := true, rst := true }
      drv := .ready
      tfSinceInit := false
      spi := ⟨false, [], 0⟩ } := by
  rw [initItems, afterItems_append, afterItems_append, afterItems_commandItems]
  cases hmode : s.cfg.initResetMode <;>
    simp [State.afterItems, State.afterItem, resetPulseItems, bringUpEvents, resetPulseEvents, hmode,
      perform, State.driveLine, State.emit, State.mapSeq, State.setSeq, Seq.emit, Seq.ended,
      Seq.setPending, Lines.drive, hp]

/-- Settles O33: DISP_INIT's list, run to its end, and its trace written out. -/
theorem dispInitBringsUp : Obligations.DispInitBringsUp := by
  intro s h hl steps hf
  have hsteps : ((itemsOf s.cfg .dispInit).map Micro.steps).sum = steps := steps_initItems s.cfg
  rw [← hsteps] at hf ⊢
  obtain ⟨t, hrun, hd, hside⟩ := h.run (initLegal_iff.mpr hl) hf
  rw [itemsOf, afterItems_initItems h.noWait] at hd
  obtain ⟨-, htseq, htlines, htdrv, httf, htspi⟩ := sameSide_d.mp hd
  refine ⟨t, hrun, ?_, htlines, htdrv, httf, htspi, hside⟩
  rw [htseq]
  cases hmode : s.cfg.initResetMode <;>
    simp [bringUpEvents, resetPulseEvents, hmode, commandFrame, writeEvents, byteEvents]

/-! ## Who moves the driver state (R140) -/

/-- Only the two writes of `drv` change it. -/
theorem perform_drv_ne {u : UnitId} {m : Micro} {s : State}
    (h : (perform u m s).drv ≠ s.drv) :
    m = .drv (perform u m s).drv ∨ m = .drvReady ∧ (perform u m s).drv = .ready := by
  cases m with
  | drv x => exact .inl rfl
  | drvReady => exact .inr ⟨rfl, rfl⟩
  | sleep | tick | ticker => exact absurd (mapSeq_drv ..) h
  | line | spi | frame | chase | wheel => exact absurd rfl h

/-- A sequencer step changes `drv` at the start of DISP_INIT and at its end alone. -/
theorem unitStep_drv {s t : State} {u : UnitId} (hu : s.actor = u) (h : s.unitStep u = .next t)
    (hne : t.drv ≠ s.drv) : s.current u = some .dispInit ∧
      ((s.seq u).mu = 0 ∧ t.drv = .initializing ∨
        (s.seq u).mu + 1 = (s.items u).length ∧ t.drv = .ready) := by
  rcases unitStep_next h with ⟨i, hc, hi⟩ | ⟨op, _, _, rfl⟩ | ⟨op, _, _, rfl⟩
  · rcases exec_next_of_current hu hc hi with ⟨_, _, rfl⟩ | ⟨_, m, hm, _, rfl⟩
    · exact absurd (mapSeq_drv ..) hne
    · rw [itemStep_drv] at hne ⊢
      rw [items_of_current hc] at hm ⊢
      rcases perform_drv_ne hne with e | ⟨e, hready⟩
      · rw [e] at hm
        obtain ⟨rfl, h0, hdrv⟩ := drv_item.1 hm
        exact ⟨hc, .inl ⟨h0, hdrv⟩⟩
      · rw [e] at hm
        obtain ⟨rfl, hlast⟩ := (drv_item (d := .ready)).2 hm
        exact ⟨hc, .inr ⟨hlast, hready⟩⟩
  · exact absurd (mapSeq_drv ..) hne
  · exact absurd (mapSeq_drv ..) hne

/-- The SPI channel changes `drv` in its fault step alone, from Initializing back to Uninitialized
(R146). -/
theorem spiStep_drv {s : State} (hne : s.spiStep.drv ≠ s.drv) :
    s.draw.spiFault = true ∧ s.drv = .initializing ∧ s.spiStep.drv = .uninitialized := by
  rcases spiStep_cases s with ⟨hf, e⟩ | ⟨_, b, rest, _, e⟩ | ⟨_, _, e⟩ <;> rw [e] at hne ⊢
  · rw [spiFail_eq] at hne ⊢
    split at hne
    · rename_i hcomp
      have hne' : s.drv.afterFault ≠ s.drv := hne
      have hinit : s.drv = .initializing := by
        by_contra hn
        exact hne' ((afterFault_eq s.drv).trans (if_neg hn))
      refine ⟨hf, hinit, ?_⟩
      rw [if_pos hcomp]
      exact congrArg Driver.afterFault hinit
    · exact absurd rfl hne
  · exact absurd rfl hne
  · rw [spiComplete_eq] at hne
    exact absurd rfl hne

theorem timerStep_drv (s : State) (u : UnitId) : (s.timerStep u).drv = s.drv := by
  cases hp : (s.seq u).pending with
  | none => rw [timerStep_of_none hp]
  | some p => rw [timerStep_eq hp, mapSeq_drv]

/-- At the last micro-operation of DISP_INIT the driver is initializing (R140, R141). -/
theorem initializing_of_last {s : State} (h : s.Inv) (hr : s.d.run = .running)
    (hc : s.current .d = some .dispInit) (hlast : s.d.mu + 1 = (s.items .d).length) :
    s.drv = .initializing := by
  rw [items_of_current hc] at hlast
  have hlen : 2 ≤ (itemsOf s.cfg .dispInit).length := init_length s.cfg
  exact h.initializing.mpr ⟨hc, by omega, by simp [hr]⟩

/-- Settles O56: of all agents' steps only those of DISP_INIT's sequencer and of its failing write
change `drv`; and the invariant at a boundary. -/
theorem onlyDispInitMovesTheDriver : Obligations.OnlyDispInitMovesTheDriver := by
  refine ⟨fun s t h hst hne => ?_, fun s h hb => drv_ne_of_boundary h ?_⟩
  · obtain ⟨a, r, hm, hr, rfl⟩ := step_cases hst
    rw [nextDraw_drv] at hne ⊢
    cases a with
    | unit u =>
      obtain ⟨hc, hmove⟩ := unitStep_drv (withAgent_actor s (.unit u)) hr hne
      cases u with
      | l => cases current_allows hc
      | d =>
        have hrun : s.d.run = .running := beq_iff_eq.mp (mover_enabled hm)
        exact ⟨hc, hmove.imp (fun ⟨h0, hd⟩ => ⟨hm, h0, hd⟩) fun ⟨hlast, hd⟩ =>
          .inl ⟨hm, initializing_of_last h hrun hc hlast, hlast, hd⟩⟩
    | spi =>
      obtain rfl := Host.Outcome.next.inj hr
      obtain ⟨hf, hinit, hd⟩ := spiStep_drv hne
      exact ⟨(h.initializing.mp hinit).1, .inr (.inr ⟨hm, hf, hinit, hd⟩)⟩
    | pulse =>
      obtain ⟨-, -, -, hdrv, -⟩ := sameSide_d.mp (step_otherSide hm (u := .d) (by decide) hst)
      exact absurd (nextDraw_drv r ▸ hdrv) hne
    | timer u => exact absurd (Host.Outcome.next.inj hr ▸ timerStep_drv _ u) hne
  · rcases hb with ⟨-, h0⟩ | hdone | hhalted
    · exact .inl h0
    · exact .inl ((h.unit .d).doneAtStart hdone)
    · exact .inr hhalted

end Sys2Proof.Machine
end

section
/-! The pulse channel (R170 to R175): how PULSE_WRITE starts a frame, what the channel's one step
leaves for each draw, and that its fault step alone sets `pulse_fault` (R252). -/

namespace Sys2Proof.Machine

/-! ## Starting a frame -/

/-- Settles O16: the count check passes, and the list's one micro-operation starts the channel. -/
theorem pulseWriteStarts : Obligations.PulseWriteStarts := by
  intro count s h0 hn
  exact exec_of_item (i := .pulseWrite count) (m := .frame) (fun _ => beq_iff_eq.mpr hn)
    (by simp [execUnit, itemsOf, h0])

/-- The issue step of PULSE_WRITE with the configured pixel count (R171). -/
theorem step_pulseWrite {s : State} {count : Half} (h : s.StartsAlone .l (.pulseWrite count))
    (hn : count.toNat = s.cfg.nPixels) :
    ∃ t, step s = .next t ∧ s.startFrame.SameSide .l t ∧ s.SameSide .d t := by
  refine h.runsAlone.step_item (m := .frame) ?_ fun _ => beq_iff_eq.mpr hn
  rw [items_of_current h.current, h.atStart]
  rfl

/-! ## The end of a frame -/

/-- Where unit L alone waits, for the pulse channel, the channel moves. -/
theorem mover_of_frame {s : State} (hr : s.l.run = .waiting .frameDone) (hp : s.l.pending = none)
    (hb : s.pulse.busy = true) (hq : s.Quiet .d) : s.mover = some .pulse := by
  refine only_mover (u := .l) hq rfl hb fun a ho ha => ?_
  cases a with
  | unit u =>
    obtain rfl : u = .l := ho
    simp [State.enabled, hr] at ha
  | spi => cases ho
  | pulse => rfl
  | timer u =>
    obtain rfl : u = .l := ho
    simp [State.enabled, hp] at ha

/-- A frame's draw is PulseFault exactly where PULSE_FAULTS admits one and one is drawn (R172). -/
theorem frameResult_eq_pulseFault {cfg : Config} {draw : Draw} :
    frameResult cfg draw = .pulseFault ↔ cfg.pulseFaults = true ∧ draw.pulseFault = true := by
  simp [frameResult]

theorem frameResult_eq_ok {cfg : Config} {draw : Draw} :
    frameResult cfg draw = .ok ↔ ¬ (cfg.pulseFaults = true ∧ draw.pulseFault = true) := by
  simp [frameResult]

/-- The channel's step in PULSE_WRITE: the drawn result is noted, its events are in the trace, and
the operation completes, its frame being the last of its list (R172, R173). -/
theorem step_pulse_of_pulseWrite {s : State} {count : Half} (hm : s.mover = some .pulse)
    (hc : s.current .l = some (.pulseWrite count)) :
    ∃ t, step s = .next t ∧ t.viewD = s.viewD ∧ t.pulse = ⟨false, []⟩ ∧
      t.led = s.led.noteFrame (frameResult s.cfg s.draw) ∧
      t.l = ({ s.l with
        run := .running
        trace := s.l.trace
          ++ frameEvents (frameResult s.cfg s.draw) s.draw.frameSent s.pulse.snap } : Seq).complete
        .ok := by
  have hst := step_of_agentStep hm (r := (s.withAgent .pulse).pulseStep) rfl
  have hl : s.pulseStep.SameSide .l (s.withAgent .pulse).pulseStep.nextDraw :=
    (pulseStep_sameSide rfl (sameSide_withAgent .l s .pulse)).trans (sameSide_nextDraw ..)
  rw [pulseStep_wakes, items_of_current hc, wake_of_last (by simp [itemsOf])] at hl
  obtain ⟨-, hseq, hled, hpulse⟩ := sameSide_l.mp hl
  exact ⟨_, hst, step_otherSide (u := .d) hm (by decide) hst, hpulse, hled, hseq⟩

/-- Settles O28: the channel's step, its result read off the draw. -/
theorem frameEnds : Obligations.FrameEnds := by
  intro s count hm hc _
  obtain ⟨t, hst, hd, hpulse, hled, hseq⟩ := step_pulse_of_pulseWrite hm hc
  refine ⟨t, hst, hd, hpulse, fun hfault => ?_, fun hok => ?_, _, hseq, fun hok => ?_,
    fun hfault hsent => ?_, fun hfault hsent => ?_⟩
  · rw [hled, frameResult_eq_pulseFault.mpr hfault]
    rfl
  · rw [hled, frameResult_eq_ok.mpr hok]
    rfl
  · rw [frameResult_eq_ok.mpr hok]
    rfl
  · rw [frameResult_eq_pulseFault.mpr hfault, hsent]
    rfl
  · rw [frameResult_eq_pulseFault.mpr hfault, hsent]
    rfl

/-! ## Runs without a pulse fault -/

/-- From `s` to `t` no frame ends in a fault, and `pulse_fault` is as it was. -/
structure State.NoPulseFaultTo (s t : State) : Prop where
  ends : Event.frameEnd .pulseFault ∈ t.l.trace → Event.frameEnd .pulseFault ∈ s.l.trace
  flag : t.led.pulseFault = s.led.pulseFault

theorem State.NoPulseFaultTo.trans {s t r : State} (h : s.NoPulseFaultTo t)
    (h' : t.NoPulseFaultTo r) : s.NoPulseFaultTo r :=
  ⟨fun hr => h.ends (h'.ends hr), h'.flag.trans h.flag⟩

theorem noPulseFaultTo_of_append {s t : State} {es : List Event} (htr : t.l.trace = s.l.trace ++ es)
    (hes : Event.frameEnd .pulseFault ∉ es) (hflag : t.led.pulseFault = s.led.pulseFault) :
    s.NoPulseFaultTo t where
  ends := fun h => (List.mem_append.mp (htr ▸ h)).resolve_right hes
  flag := hflag

theorem noPulseFaultTo_of_sameSide {s t : State} (h : s.SameSide .l t) : s.NoPulseFaultTo t := by
  obtain ⟨-, hl, hled, -⟩ := sameSide_l.mp h
  exact ⟨fun ht => hl ▸ ht, congrArg Led.pulseFault hled⟩

theorem noPulseFaultTo_mapSeq {u : UnitId} {f : Seq → Seq} {s : State}
    (hf : (f (s.seq u)).trace = (s.seq u).trace) : s.NoPulseFaultTo (s.mapSeq u f) := by
  cases u with
  | d => exact noPulseFaultTo_of_sameSide rfl
  | l => exact ⟨fun h => hf ▸ h, rfl⟩

/-- No micro-operation ends a frame, and an animation tick leaves `pulse_fault` (R224, R230). -/
theorem noPulseFaultTo_perform (u : UnitId) (m : Micro) (s : State) :
    s.NoPulseFaultTo (perform u m s) := by
  cases m with
  | sleep | tick | ticker => cases u <;> exact ⟨id, rfl⟩
  | line | spi | drv | drvReady | frame | chase | wheel => exact ⟨id, rfl⟩

theorem noPulseFaultTo_itemStep (u : UnitId) (n : Nat) (m : Micro) (s : State) :
    s.NoPulseFaultTo (itemStep u n m s) := by
  unfold itemStep
  split
  · exact noPulseFaultTo_perform u m s
  · exact (noPulseFaultTo_perform u m s).trans (noPulseFaultTo_mapSeq (finish_trace ..))

theorem noPulseFaultTo_unitStep {s t : State} {u : UnitId} (h : s.unitStep u = .next t) :
    s.NoPulseFaultTo t := by
  rcases unitStep_next h with ⟨i, _, hi⟩ | ⟨op, _, _, rfl⟩ | ⟨op, _, _, rfl⟩
  · rcases exec_next hi with ⟨_, _, rfl⟩ | ⟨_, m, _, rfl⟩
    · exact noPulseFaultTo_mapSeq (raise_trace ..)
    · exact noPulseFaultTo_itemStep ..
  · exact noPulseFaultTo_mapSeq (raise_trace ..)
  · exact noPulseFaultTo_mapSeq (seqRefuse_trace _)

theorem noPulseFaultTo_pulseStep {s : State} (hok : frameResult s.cfg s.draw = .ok) :
    s.NoPulseFaultTo s.pulseStep := by
  rw [pulseStep_wakes, hok]
  exact noPulseFaultTo_of_append (es := [.frame s.pulse.snap, .frameEnd .ok]) (wake_trace ..)
    (by simp) rfl

theorem noPulseFaultTo_timerStep (s : State) (u : UnitId) : s.NoPulseFaultTo (s.timerStep u) := by
  cases u with
  | d => exact noPulseFaultTo_of_sameSide (timerStep_otherSide s .d)
  | l =>
    cases hp : s.l.pending with
    | none => rw [timerStep_of_none (u := .l) hp]; exact noPulseFaultTo_of_sameSide (.refl ..)
    | some p =>
      rw [timerStep_eq (u := .l) hp]
      cases p <;> exact noPulseFaultTo_of_append (es := [_]) (wake_trace ..) (by simp) rfl

/-- Every step but that in which a frame's draw is PulseFault (R172). -/
theorem noPulseFaultTo_step {s t : State} (hno : s.NoPulseFaultNow) (h : step s = .next t) :
    s.NoPulseFaultTo t := by
  obtain ⟨a, r, hm, hr, rfl⟩ := step_cases h
  have hstep : (s.withAgent a).NoPulseFaultTo r := by
    cases a with
    | unit u => exact noPulseFaultTo_unitStep hr
    | spi => exact Host.Outcome.next.inj hr ▸ noPulseFaultTo_of_sameSide (spiStep_otherSide _)
    | pulse => exact Host.Outcome.next.inj hr ▸ noPulseFaultTo_pulseStep (hno hm)
    | timer u => exact Host.Outcome.next.inj hr ▸ noPulseFaultTo_timerStep _ u
  exact ((noPulseFaultTo_of_sameSide (sameSide_withAgent .l s a)).trans hstep).trans
    (noPulseFaultTo_of_sameSide (sameSide_nextDraw .l r))

theorem noPulseFaultTo_of_reaches {s t : State} (hf : s.PulseFaultFree) (h : Reaches s t) :
    s.NoPulseFaultTo t := by
  induction h with
  | refl => exact noPulseFaultTo_of_sameSide (.refl ..)
  | tail hsb hbt ih => exact ih.trans (noPulseFaultTo_step (hf _ hsb) hbt)

/-! ## A whole PULSE_WRITE -/

/-- The two steps of PULSE_WRITE on a fault-free channel (R171, R172, R174). -/
theorem run_pulseWrite {s : State} {count : Half} (h : s.StartsAlone .l (.pulseWrite count))
    (hn : count.toNat = s.cfg.nPixels) (hf : s.PulseFaultFreeFor 2) :
    ∃ t, core.run 2 s = .next t ∧
      t.l = ({ s.l with
        trace := s.l.trace ++ [Event.frame s.led.fb, .frameEnd .ok] } : Seq).complete .ok ∧
      t.led = s.led ∧ t.pulse = ⟨false, []⟩ ∧ t.viewD = s.viewD := by
  obtain ⟨r, hsr, hrl, hrd⟩ := step_pulseWrite h hn
  obtain ⟨-, hseq, hled, hpulse⟩ := sameSide_l.mp hrl
  have hm : r.mover = some .pulse :=
    mover_of_frame (congrArg Seq.run hseq) ((congrArg Seq.pending hseq).trans h.noWait)
      (congrArg Pulse.busy hpulse) (hrd.quiet h.alone)
  have hc : r.current .l = some (.pulseWrite count) := hrl.current_eq.trans h.current
  obtain ⟨t, hrt, htd, htpulse, htled, htseq⟩ := step_pulse_of_pulseWrite hm hc
  have hok : frameResult r.cfg r.draw = .ok := (hf.next hsr).now Nat.one_pos hm
  rw [hok] at htled htseq
  refine ⟨t, (run_succ 1 hsr).trans (run_succ 0 hrt), ?_, htled.trans hled, htpulse,
    htd.trans hrd⟩
  have hrun : s.l.run = .running := h.running
  rw [htseq, hseq, hpulse, ← hrun]
  rfl

/-- Settles O35: the issue step, then the channel's step; and an induction over the run. -/
theorem pulseWriteEmitsTheFrame : Obligations.PulseWriteEmitsTheFrame := by
  refine ⟨fun _ _ => run_pulseWrite, fun s t hfree hst => ?_⟩
  obtain ⟨hends, hflag⟩ := noPulseFaultTo_of_reaches hfree hst
  exact ⟨hends, hflag⟩

end Sys2Proof.Machine
end

section
/-! The timer operations of either unit (R190 to R199): how SLEEP, TICKER_NEXT and TICKER_SET start,
and the two steps of a timer wait that is a whole operation. -/

namespace Sys2Proof.Machine

/-! ## Starting a timer operation -/

/-- The one micro-operation of a list finishes its operation (R30). -/
theorem finish_one (q : Seq) : q.finish 1 = q.complete .ok := if_neg (by omega)

/-- Settles O17: each list is one micro-operation; the checks of TICKER_NEXT and TICKER_SET pass, a
wait is issued, and the ticker's start finishes at once. -/
theorem timerOperationsStart : Obligations.TimerOperationsStart := by
  rintro _ s rfl h0
  refine ⟨fun ms => ?_, fun harmed => ?_, fun period hp => ?_⟩
  · exact exec_of_item (i := .sleep ms) (m := .sleep ms) (fun _ => rfl)
      (by simp [execUnit, itemsOf, h0])
  · exact exec_of_item (i := .tickerNext) (m := .tick) (fun _ => harmed)
      (by simp [execUnit, itemsOf, h0])
  · have hrun := exec_of_item (i := .tickerSet period) (m := .ticker period) (s := s)
      (fun _ => bne_iff_ne.mpr (Nat.one_le_iff_ne_zero.mp hp)) (by simp [execUnit, itemsOf, h0])
    have harm : itemStep s.actor 1 (.ticker period) s =
        s.mapSeq s.actor (Seq.finish 1 ∘ Seq.armTicker period) := mapSeq_mapSeq ..
    exact hrun.trans (congrArg _ (harm.trans (congrArg (s.setSeq s.actor) (finish_one _))))

/-! ## A whole timer wait -/

/-- What the issue step of a timer wait leaves of its unit's sequencer (R191, R197). -/
def Seq.startWait (p : Pending) (w : Wait) (q : Seq) : Seq := (q.setPending (some p)).await w

theorem itemStep_sleep (u : UnitId) (n : Nat) (ms : Half) (s : State) :
    itemStep u n (.sleep ms) s = s.mapSeq u (Seq.startWait (.sleep ms) .sleepDone) := rfl

theorem itemStep_tick (u : UnitId) (n : Nat) (s : State) :
    itemStep u n .tick s = s.mapSeq u (Seq.startWait .tick .tickDone) := rfl

/-- A unit that started alone waits for the timer alone. -/
theorem State.StartsAlone.timesAlone_startWait {s : State} {u : UnitId} {i : Instr}
    (h : s.StartsAlone u i) (p : Pending) (w : Wait) :
    (s.mapSeq u (Seq.startWait p w)).TimesAlone u p :=
  ⟨by simp [Seq.startWait], by simp [Seq.startWait], by simpa using h.spiIdle,
    by simpa using h.pulseIdle, (mapSeq_otherSide u _ s).quiet h.alone⟩

theorem ended_sleep {q : Seq} (hp : q.pending = none) (ms : Half) :
    q.ended (.sleep ms) = { q with trace := q.trace ++ [Event.sleep ms] } := by
  simp [Seq.ended, Seq.setPending, Seq.emit, hp]

theorem ended_tick {q : Seq} (hp : q.pending = none) : q.ended .tick = { q with
    ticker := { q.ticker with k := q.ticker.k + 1 }
    trace := q.trace ++ [Event.tick (q.ticker.k + 1)] } := by
  simp [Seq.ended, Seq.setPending, Seq.emit, Seq.countTick, hp]

/-- Where the other side is as it was, and this one but for its sequencer, nothing else differs. -/
theorem sameBut_of_sides {u : UnitId} {f : Seq → Seq} {s t : State}
    (hu : (s.mapSeq u f).SameSide u t) (ho : s.SameSide (otherUnit u) t) : s.SameBut u t := by
  have hseq : ∀ v, v ≠ u → t.seq v = s.seq v := fun v hv => by
    rw [eq_otherUnit_of_ne hv, ho.seq_eq]
  cases u
  · obtain ⟨hcfg, -, hlines, hdrv, htf, hspi⟩ := sameSide_d.mp hu
    obtain ⟨-, -, hled, hpulse⟩ := sameSide_l.mp ho
    exact ⟨hcfg, hlines, hdrv, htf, hspi, hled, hpulse, hseq⟩
  · obtain ⟨hcfg, -, hled, hpulse⟩ := sameSide_l.mp hu
    obtain ⟨-, -, hlines, hdrv, htf, hspi⟩ := sameSide_d.mp ho
    exact ⟨hcfg, hlines, hdrv, htf, hspi, hled, hpulse, hseq⟩

theorem State.SameBut.trans {u : UnitId} {s t r : State} (h : s.SameBut u t)
    (h' : t.SameBut u r) : s.SameBut u r := by
  obtain ⟨hcfg, hlines, hdrv, htf, hspi, hled, hpulse, hseq⟩ := h
  obtain ⟨hcfg', hlines', hdrv', htf', hspi', hled', hpulse', hseq'⟩ := h'
  exact ⟨hcfg'.trans hcfg, hlines'.trans hlines, hdrv'.trans hdrv, htf'.trans htf,
    hspi'.trans hspi, hled'.trans hled, hpulse'.trans hpulse,
    fun v hv => (hseq' v hv).trans (hseq v hv)⟩

/-- An operation whose list is one timer wait: its issue step, then the timer's step, which ends the
wait and completes the operation (R191, R197). -/
theorem State.StartsAlone.run_wait {s : State} {u : UnitId} {i : Instr} {m : Micro} {p : Pending}
    {w : Wait} (h : s.StartsAlone u i) (hi : itemsOf s.cfg i = [m])
    (hm : itemStep u 1 m s = s.mapSeq u (Seq.startWait p w))
    (hc : (execCheck i (s.withAgent (.unit u))).1 = true) :
    ∃ t, core.run 2 s = .next t ∧ s.SameBut u t ∧ t.seq u = ((s.seq u).ended p).complete .ok := by
  have hs : s.items u = [m] := (items_of_current h.current).trans hi
  obtain ⟨r, hsr, hru, hro⟩ := h.runsAlone.step_item (m := m) (by simp [hs, h.atStart]) fun _ => hc
  rw [hs, List.length_singleton, hm] at hru
  have hwaits : r.TimesAlone u p := (h.timesAlone_startWait p w).congr hru
    ((mapSeq_otherSide u _ s).symm.trans hro)
  obtain ⟨t, hrt, hbut, hseq⟩ := step_timer hwaits.mover hwaits.pending
  refine ⟨t, (run_succ 1 hsr).trans (run_succ 0 hrt), (sameBut_of_sides hru hro).trans hbut, ?_⟩
  have hitems : r.items u = [m] :=
    hru.items_eq.trans ((items_congr (by simp) (by simp [Seq.startWait])
      (by simp [Seq.startWait])).trans hs)
  rw [hseq, hitems, hru.seq_eq, mapSeq_seq, Seq.startWait, wake_ended h.running]
  exact finish_one _

/-- Settles O34: SLEEP passes no check, TICKER_NEXT that of an armed ticker; each is one timer
wait. -/
theorem timerWaitsComplete : Obligations.TimerWaitsComplete := by
  refine ⟨fun s u ms h => ?_, fun s u h harmed => ?_⟩
  · rw [← ended_sleep h.noWait]
    exact h.run_wait rfl (itemStep_sleep ..) rfl
  · rw [← ended_tick h.noWait]
    exact h.run_wait rfl (itemStep_tick ..) (by simpa [execCheck, Agent.owner] using harmed)

end Sys2Proof.Machine
end

section
/-! The colour wheel and the circular index (R211 to R213, R217, R218): the wheel's channels as
numbers in each of its three bands, and `wrap` as the Euclidean remainder. -/

namespace Sys2Proof.Machine

/-! ## The wheel -/

/-- The channels of a pixel, as numbers. -/
def HasChannels (p : Pixel) (r g b : Nat) : Prop := p.r.toNat = r ∧ p.g.toNat = g ∧ p.b.toNat = b

theorem pixelOf_hasChannels {r g b : Nat} (hr : r ≤ 255) (hg : g ≤ 255) (hb : b ≤ 255) :
    HasChannels (pixelOf r g b) r g b := by
  simp only [HasChannels, pixelOf, BitVec.toNat_ofNat]
  omega

/-- The three bands of the inverted position `v` (R211); none has a channel above 255 (R212). -/
theorem wheel_bands {position : Byte} {v : Nat} (hv : v + position.toNat = 255) :
    (v < 85 ∧ HasChannels (wheel position) (255 - 3 * v) 0 (3 * v)) ∨
    (85 ≤ v ∧ v < 170 ∧ HasChannels (wheel position) 0 (3 * (v - 85)) (255 - 3 * (v - 85))) ∨
    (170 ≤ v ∧ HasChannels (wheel position) (3 * (v - 170)) (255 - 3 * (v - 170)) 0) := by
  obtain rfl : v = 255 - position.toNat := by omega
  unfold wheel
  dsimp only
  split_ifs with low middle
  · exact .inl ⟨low, pixelOf_hasChannels (by omega) (by omega) (by omega)⟩
  · exact .inr (.inl ⟨by omega, middle, pixelOf_hasChannels (by omega) (by omega) (by omega)⟩)
  · exact .inr (.inr ⟨by omega, pixelOf_hasChannels (by omega) (by omega) (by omega)⟩)

theorem exists_inverted (position : Byte) : ∃ v, v + position.toNat = 255 :=
  ⟨255 - position.toNat, by omega⟩

/-- The integer channels of R211 are those of `wheel`. -/
theorem wheel_exact {position : Byte} {v : Nat} (hv : v + position.toNat = 255) :
    (if (v : Int) < 85 then (255 - 3 * (v : Int), 0, 3 * (v : Int))
      else if (v : Int) < 170 then (0, 3 * ((v : Int) - 85), 255 - 3 * ((v : Int) - 85))
      else (3 * ((v : Int) - 170), 255 - 3 * ((v : Int) - 170), 0)) =
    (((wheel position).r.toNat : Int), ((wheel position).g.toNat : Int),
      ((wheel position).b.toNat : Int)) := by
  rcases wheel_bands hv with ⟨hlt, hr, hg, hb⟩ | ⟨hge, hlt, hr, hg, hb⟩ | ⟨hge, hr, hg, hb⟩ <;>
    rw [hr, hg, hb]
  · rw [if_pos (by omega), Prod.mk.injEq, Prod.mk.injEq]
    omega
  · rw [if_neg (by omega), if_pos (by omega), Prod.mk.injEq, Prod.mk.injEq]
    omega
  · rw [if_neg (by omega), if_neg (by omega), Prod.mk.injEq, Prod.mk.injEq]
    omega

theorem byte_inRange (x : Byte) : 0 ≤ (x.toNat : Int) ∧ (x.toNat : Int) ≤ 255 ∧
    (x.toNat : Int) % 256 = x.toNat ∧ max 0 (min 255 (x.toNat : Int)) = x.toNat := by omega

/-- Settles O37: the exact channels are those of a pixel, which are bytes; the bounds are linear. -/
theorem wheelStaysInRange : Obligations.WheelStaysInRange := by
  intro position
  obtain ⟨v, hv⟩ := exists_inverted position
  have hcast : (255 : Int) - position.toNat = v := by omega
  simp only [hcast, wheel_exact hv, List.forall_mem_cons]
  exact ⟨by omega, by omega, by omega,
    ⟨byte_inRange _, byte_inRange _, byte_inRange _, List.forall_mem_nil _⟩,
    trivial, trivial, trivial⟩

/-- Two channels are 0 where two bands meet and at the ends of the cycle (R213). -/
theorem wheel_count_zero (position : Byte) :
    [(wheel position).r, (wheel position).g, (wheel position).b].count 0 =
      if position = 0 ∨ position = 255 ∨ position = 170 ∨ position = 85 then 2 else 1 := by
  obtain ⟨v, hv⟩ := exists_inverted position
  have hzero : ∀ x : Byte, x = 0 ↔ x.toNat = 0 := fun x => BitVec.toNat_inj.symm
  have hends : (position = 0 ∨ position = 255 ∨ position = 170 ∨ position = 85) ↔
      (position.toNat = 0 ∨ position.toNat = 255 ∨ position.toNat = 170 ∨ position.toNat = 85) := by
    simp only [← BitVec.toNat_inj]
    rfl
  simp only [List.count_cons, List.count_nil, beq_iff_eq]
  simp only [hends, hzero (wheel position).r, hzero (wheel position).g, hzero (wheel position).b]
  rcases wheel_bands hv with ⟨_, hr, hg, hb⟩ | ⟨_, _, hr, hg, hb⟩ | ⟨_, hr, hg, hb⟩ <;>
    rw [hr, hg, hb] <;> split_ifs <;> omega

/-- Settles O38: each property is read off the three bands. -/
theorem wheelProperties : Obligations.WheelProperties := by
  refine ⟨fun position => ⟨?_, ?_, wheel_count_zero position⟩, by decide, by decide, by decide,
    by decide, fun position => ?_⟩ <;> obtain ⟨v, hv⟩ := exists_inverted position
  · rcases wheel_bands hv with ⟨_, hr, hg, hb⟩ | ⟨_, _, hr, hg, hb⟩ | ⟨_, hr, hg, hb⟩ <;> omega
  · rcases wheel_bands hv with ⟨_, -, hg, -⟩ | ⟨_, _, hr, -, -⟩ | ⟨_, -, -, hb⟩
    · exact .inr (.inl (BitVec.eq_of_toNat_eq hg))
    · exact .inl (BitVec.eq_of_toNat_eq hr)
    · exact .inr (.inr (BitVec.eq_of_toNat_eq hb))
  · rcases wheel_bands hv with ⟨_, hr, hg, hb⟩ | ⟨_, _, hr, hg, hb⟩ | ⟨_, hr, hg, hb⟩ <;>
      dsimp only <;> omega

/-! ## The circular index -/

/-- Settles O42: `wrap` is the remainder of the integers; N_PIXELS is above the head index. -/
theorem wrapProperties : Obligations.WrapProperties := by
  refine ⟨fun i o n hn => ?_, fun i n h0 hlt => ?_, fun i o => Int.emod_one _,
    fun i o k n _ => ?_, fun s h => Nat.one_le_of_lt h.head⟩
  · exact ⟨Int.emod_nonneg _ (by omega), Int.emod_lt_of_pos _ (by omega), (i + o) / n,
      (Int.emod_add_ediv_mul _ _).symm⟩
  · rw [wrap, add_zero, Int.emod_eq_of_lt h0 hlt]
  · rw [wrap, add_right_comm, Int.add_mul_emod_self_right, wrap]

end Sys2Proof.Machine
end

section
/-! `scale` (R214 to R216): for a factor of at most 1.0 a channel's product drops no bit at or above
the binary point, so its rounding and truncation are those of one natural number, `mulTrunc_eq`. -/

namespace Sys2Proof.Machine

/-! ## Rounding -/

/-- Rounding does not pass a representable bound. -/
theorem roundShift_le {m d q : Nat} (h : m ≤ q * 2 ^ d) : roundShift m d ≤ q := by
  obtain ⟨above, -⟩ := roundShift_within_half_unit m d
  by_contra hgt
  have hnext : (q + 1) * 2 ^ d ≤ roundShift m d * 2 ^ d := Nat.mul_le_mul_right _ (by omega)
  have hpos := Nat.two_pow_pos d
  rw [Nat.add_one_mul] at hnext
  omega

theorem le_roundShift {m d q : Nat} (h : q * 2 ^ d ≤ m) : q ≤ roundShift m d := by
  obtain ⟨-, below⟩ := roundShift_within_half_unit m d
  by_contra hlt
  have hnext : (roundShift m d + 1) * 2 ^ d ≤ q * 2 ^ d := Nat.mul_le_mul_right _ (by omega)
  have hpos := Nat.two_pow_pos d
  rw [Nat.add_one_mul] at hnext
  omega

theorem roundShift_mul_pow (q d : Nat) : roundShift (q * 2 ^ d) d = q :=
  le_antisymm (roundShift_le le_rfl) (le_roundShift le_rfl)

theorem droppedBits_le {m j : Nat} {e : Int} (hm : m < 2 ^ (j + 24)) (he : -149 ≤ e) :
    droppedBits ⟨m, e⟩ ≤ j := by
  have hlog : Nat.log2 m < j + 24 := by
    rcases eq_or_ne m 0 with rfl | hne
    · simp
    · exact (Nat.log2_lt hne).mpr hm
  simp only [droppedBits]
  omega

theorem truncScaled_neg (m f : Nat) : truncScaled ⟨m, -(f : Int)⟩ = m / 2 ^ f := by
  rcases Nat.eq_zero_or_pos f with rfl | hf
  · simp [truncScaled]
  · simp only [truncScaled]
    rw [if_neg (by omega), neg_neg, Int.toNat_natCast]

/-! ## One channel -/

/-- The product of a channel by a factor `m / 2 ^ f` of at most 1.0, where the rounding drops `d`
bits (R214). -/
theorem mulTrunc_eq {s : Word} {m f : Nat} (hs : f32Value s = ⟨m, -(f : Int)⟩) (hm : m ≤ 2 ^ f)
    (hf : 16 ≤ f) (hf' : f ≤ 149) {x : Nat} (hx : x < 256) :
    ∃ d, d + 16 ≤ f ∧ mulTrunc x s = roundShift (x * m) d / 2 ^ (f - d) := by
  have hprod : x * m < 2 ^ (f - 16 + 24) := by
    calc x * m ≤ x * 2 ^ f := Nat.mul_le_mul_left _ hm
      _ < 2 ^ 8 * 2 ^ f := Nat.mul_lt_mul_of_pos_right hx (Nat.two_pow_pos f)
      _ = 2 ^ (f - 16 + 24) := by rw [← Nat.pow_add]; congr 1; omega
  have hd := droppedBits_le hprod (e := -(f : Int)) (by omega)
  refine ⟨droppedBits ⟨x * m, -(f : Int)⟩, by omega, ?_⟩
  have hexp : (roundToF32 ⟨x * m, -(f : Int)⟩).exp
      = -((f - droppedBits ⟨x * m, -(f : Int)⟩ : Nat) : Int) := by
    rw [roundToF32_exp]
    dsimp only
    omega
  rw [mulTrunc, hs, ← truncScaled_neg, ← hexp]
  rfl

/-- A power of 2 from 1.0 down to 2 ^ -16, its mantissa 2 ^ 23, is applied exactly, and the product
truncated (R216). -/
theorem mulTrunc_pow {s : Word} {f : Nat} (hs : f32Value s = ⟨2 ^ 23, -(f : Int)⟩) (hf : 23 ≤ f)
    (hf' : f ≤ 39) {x : Nat} (hx : x < 256) : mulTrunc x s = x / 2 ^ (f - 23) := by
  obtain ⟨d, hd, e⟩ :=
    mulTrunc_eq hs (Nat.pow_le_pow_right Nat.two_pos hf) (by omega) (by omega) hx
  have hsplit : x * 2 ^ 23 = x * 2 ^ (23 - d) * 2 ^ d := by
    rw [mul_assoc, ← Nat.pow_add, Nat.sub_add_cancel (by omega)]
  have hden : 2 ^ (f - d) = 2 ^ (f - 23) * 2 ^ (23 - d) := by
    rw [← Nat.pow_add]
    congr 1
    omega
  rw [e, hsplit, roundShift_mul_pow, hden, Nat.mul_div_mul_right _ _ (Nat.two_pow_pos _)]

theorem mulTrunc_one {x : Nat} (hx : x < 256) : mulTrunc x f32One = x := by
  have hone : f32Value f32One = ⟨2 ^ 23, -((23 : Nat) : Int)⟩ := by decide
  exact (mulTrunc_pow hone le_rfl (by omega) hx).trans (Nat.div_one x)

theorem mulTrunc_half {x : Nat} (hx : x < 256) : mulTrunc x Config.chaseBrightness = x / 2 := by
  have hhalf : f32Value Config.chaseBrightness = ⟨2 ^ 23, -((24 : Nat) : Int)⟩ := by decide
  exact mulTrunc_pow hhalf (by omega) (by omega) hx

theorem mulTrunc_zero {x : Nat} (hx : x < 256) : mulTrunc x 0 = 0 := by
  have hzero : f32Value 0 = ⟨0, -((149 : Nat) : Int)⟩ := by decide
  obtain ⟨d, -, e⟩ := mulTrunc_eq hzero (Nat.zero_le _) (by omega) (by omega) hx
  have hround : roundShift 0 d = 0 := by simpa using roundShift_mul_pow 0 d
  rw [e, Nat.mul_zero, hround, Nat.zero_div]

/-! ## Factors -/

/-- The value of a factor whose bits are at most those of 1.0 is at most 1.0. -/
theorem f32Value_of_le_one {b : Word} (h : b.toNat ≤ f32One.toNat) :
    ∃ m f : Nat, f32Value b = ⟨m, -(f : Int)⟩ ∧ m ≤ 2 ^ f ∧ 16 ≤ f ∧ f ≤ 149 := by
  have hone : f32One.toNat = 127 * 2 ^ 23 := rfl
  have hfrac : f32Fraction b = b.toNat % 2 ^ 23 := by
    simp [f32Fraction, BitVec.extractLsb'_toNat]
  have hexp : f32Exponent b = b.toNat / 2 ^ 23 := by
    simp only [f32Exponent, BitVec.extractLsb'_toNat, Nat.shiftRight_eq_div_pow]
    omega
  have hparts := Nat.div_add_mod b.toNat (2 ^ 23)
  have hlt : b.toNat % 2 ^ 23 < 2 ^ 23 := Nat.mod_lt _ (Nat.two_pow_pos 23)
  rw [← hexp, ← hfrac] at hparts
  rw [← hfrac] at hlt
  unfold f32Value
  split_ifs with hsub
  · exact ⟨_, 149, rfl, by omega, by omega, le_rfl⟩
  · refine ⟨f32Fraction b + 2 ^ 23, 150 - f32Exponent b, ?_, ?_, by omega, by omega⟩
    · rw [Scaled.mk.injEq]
      exact ⟨rfl, by omega⟩
    · rcases Nat.lt_or_ge (f32Exponent b) 127 with hsmall | hbig
      · calc f32Fraction b + 2 ^ 23 ≤ 2 ^ 24 := by omega
          _ ≤ 2 ^ (150 - f32Exponent b) := Nat.pow_le_pow_right Nat.two_pos (by omega)
      · have htop : f32Exponent b = 127 := by omega
        rw [htop]
        omega

theorem f32Clamp_le_one (b : Word) : (f32Clamp b).toNat ≤ f32One.toNat := by
  unfold f32Clamp
  split_ifs with hneg hbig
  · decide
  · exact le_rfl
  · omega

/-- A channel does not rise (R215): the factor is at most 1.0, and rounding does not pass the
channel itself. -/
theorem mulTrunc_le {s : Word} (hs : s.toNat ≤ f32One.toNat) {x : Nat} (hx : x < 256) :
    mulTrunc x s ≤ x := by
  obtain ⟨m, f, hval, hm, hf, hf'⟩ := f32Value_of_le_one hs
  obtain ⟨d, hd, e⟩ := mulTrunc_eq hval hm hf hf' hx
  have hbound : x * m ≤ x * 2 ^ (f - d) * 2 ^ d := by
    rw [mul_assoc, ← Nat.pow_add, Nat.sub_add_cancel (by omega)]
    exact Nat.mul_le_mul_left x hm
  rw [e]
  exact Nat.div_le_of_le_mul (Nat.mul_comm x _ ▸ roundShift_le hbound)

/-- The value of a finite factor above 1.0 is that of bits above those of 1.0. -/
theorem f32Clamp_of_one_lt {b : Word} (hpos : b.msb = false)
    (h : 1 < ((f32Value b).mant : ℚ) * 2 ^ (f32Value b).exp) : f32Clamp b = f32One := by
  have hbits : f32One.toNat < b.toNat := by
    by_contra hle
    obtain ⟨m, f, hval, hm, -, -⟩ := f32Value_of_le_one (Nat.le_of_not_lt hle)
    rw [hval, zpow_neg, zpow_natCast, ← div_eq_mul_inv, one_lt_div (by positivity)] at h
    exact absurd hm (not_le.mpr (by exact_mod_cast h))
  rw [f32Clamp, hpos, if_neg Bool.false_ne_true, if_pos hbits]

theorem f32Clamp_of_negative {b : Word} (h : b.msb = true) : f32Clamp b = 0 := if_pos h

/-! ## Pixels -/

theorem scaleChannel_toNat (b : Word) (x : Byte) :
    (scaleChannel b x).toNat = mulTrunc x.toNat (f32Clamp b) := by
  have hx := x.isLt
  have hle := mulTrunc_le (f32Clamp_le_one b) hx
  rw [scaleChannel, BitVec.toNat_ofNat, Nat.mod_eq_of_lt (by omega)]

theorem scaleChannel_le (b : Word) (x : Byte) : scaleChannel b x ≤ x := by
  rw [BitVec.le_def, scaleChannel_toNat]
  exact mulTrunc_le (f32Clamp_le_one b) x.isLt

theorem scaleChannel_one (x : Byte) : scaleChannel f32One x = x :=
  BitVec.eq_of_toNat_eq ((scaleChannel_toNat _ x).trans (mulTrunc_one x.isLt))

theorem scaleChannel_zero (x : Byte) : scaleChannel 0 x = 0 :=
  BitVec.eq_of_toNat_eq ((scaleChannel_toNat _ x).trans (mulTrunc_zero x.isLt))

theorem scaleChannel_half (x : Byte) : scaleChannel Config.chaseBrightness x = x >>> 1 := by
  apply BitVec.eq_of_toNat_eq
  rw [BitVec.toNat_ushiftRight, Nat.shiftRight_eq_div_pow]
  exact (scaleChannel_toNat _ x).trans (mulTrunc_half x.isLt)

/-- A factor acts as what it is clamped to. -/
theorem scale_congr {b b' : Word} (h : f32Clamp b = f32Clamp b') (p : Pixel) :
    scale p b = scale p b' := by simp only [scale, scaleChannel, h]

/-- Each channel shifted right by `k`. -/
def shiftChannels (p : Pixel) (k : Nat) : Pixel := ⟨p.r >>> k, p.g >>> k, p.b >>> k⟩

theorem scale_one (p : Pixel) : scale p f32One = p := by simp only [scale, scaleChannel_one]

theorem scale_zero (p : Pixel) : scale p 0 = Pixel.black := by
  simp only [scale, scaleChannel_zero]
  rfl

theorem scale_half (p : Pixel) : scale p Config.chaseBrightness = shiftChannels p 1 := by
  simp only [scale, scaleChannel_half, shiftChannels]

theorem shiftChannels_zero (p : Pixel) : shiftChannels p 0 = p := by simp [shiftChannels]

theorem shiftChannels_shiftChannels (p : Pixel) (j k : Nat) :
    shiftChannels (shiftChannels p j) k = shiftChannels p (j + k) := by
  simp only [shiftChannels, BitVec.shiftRight_add]

/-- Halving `k` times shifts by `k` (R216). -/
theorem iterate_scale_half (k : Nat) (p : Pixel) :
    (fun p => scale p Config.chaseBrightness)^[k] p = shiftChannels p k := by
  induction k with
  | zero => exact (shiftChannels_zero p).symm
  | succ k ih => rw [Function.iterate_succ_apply', ih, scale_half, shiftChannels_shiftChannels]

/-- Settles O39: 1.0 and 0.5 are powers of 2, so their products are exact; the shifts add up. -/
theorem scaleExactCases : Obligations.ScaleExactCases :=
  ⟨scale_one, scale_zero, scale_half, iterate_scale_half⟩

/-- Settles O40: the factors beyond [0, 1] are clamped to its ends, and a product by a factor in
[0, 1] does not rise. -/
theorem scaleCornerCases : Obligations.ScaleCornerCases := by
  refine ⟨fun p b hpos _ hgt => ?_, fun p => scale_congr (by decide) p, fun p b hneg _ => ?_,
    fun cfg hnan => by simp [configOk, hnan], fun p b => ?_, by decide⟩
  · exact scale_congr (f32Clamp_of_one_lt hpos hgt) p
  · exact scale_congr (f32Clamp_of_negative hneg) p
  · exact ⟨scaleChannel_le b p.r, scaleChannel_le b p.g, scaleChannel_le b p.b⟩

end Sys2Proof.Machine
end

section
/-! The frame source (R224 to R234): CHASE_STEP and WHEEL_STEP as one animation tick each, what a
number of ticks leaves in a pixel, and that no other step writes the frame buffer. -/

namespace Sys2Proof.Machine

/-! ## CHASE_STEP -/

/-- CHASE_STEP's list is one chase tick, which finishes the operation (R224). -/
theorem exec_chaseStep {s : State} (h0 : s.l.mu = 0) : exec .chaseStep s = .next { s with
    led := chaseTick s.cfg.nPixels s.led, l := s.l.complete .ok } := by
  have hrun := exec_of_item (i := .chaseStep) (m := .chase) (s := s) (fun _ => rfl)
    (by simp [execUnit, itemsOf, h0])
  rw [hrun, ← finish_one]
  rfl

theorem chaseTick_get_head {n : Nat} {led : Led} (hl : led.fb.length = n) (hh : led.h < n) :
    (chaseTick n led).fb[led.h]? = some (headColour (chaseTick n led).c) :=
  (chaseTick_get n led hl hh led.h).trans (if_pos rfl)

theorem chaseTick_get_trailing {n : Nat} {led : Led} (hl : led.fb.length = n) (hh : led.h < n)
    {i : Nat} (hi : i ≠ led.h) : (chaseTick n led).fb[i]? =
      (led.fb[i]?).map fun p => scale p Config.chaseBrightness :=
  (chaseTick_get n led hl hh i).trans (if_neg hi)

/-- The index behind the new head index is the old one (R226). -/
theorem wrapIndex_behind_head {n : Nat} {led : Led} (hh : led.h < n) :
    wrapIndex (chaseTick n led).h (-1) n = led.h := by
  rw [chaseTick_h, wrapIndex, wrap]
  push_cast
  rw [Int.emod_add_emod, add_neg_cancel_right, Int.emod_eq_of_lt (by omega) (by omega),
    Int.toNat_natCast]

/-- Settles O18: the tick writes the head pixel, which the new head index then follows, and darkens
every other. -/
theorem chaseStepComputesItsFrame : Obligations.ChaseStepComputesItsFrame := by
  intro s h0 hl hh
  refine ⟨_, exec_chaseStep h0, BitVec.toNat_add .., chaseTick_h .., ?_, chaseTick_get_head hl hh,
    fun i _ hi => chaseTick_get_trailing hl hh hi, ?_, rfl⟩
  · exact (chaseTick_fb_length ..).trans hl
  · rw [wrapIndex_behind_head hh]
    exact chaseTick_get_head hl hh

/-! ## A number of chase ticks -/

theorem chaseTicks_fb_length (n k : Nat) (led : Led) :
    ((chaseTick n)^[k] led).fb.length = led.fb.length := by
  induction k with
  | zero => rfl
  | succ k ih => rw [Function.iterate_succ_apply', chaseTick_fb_length, ih]

theorem chaseTicks_h {n : Nat} {led : Led} (hh : led.h < n) (k : Nat) :
    ((chaseTick n)^[k] led).h = (led.h + k) % n := by
  induction k with
  | zero => exact (Nat.mod_eq_of_lt hh).symm
  | succ k ih => rw [Function.iterate_succ_apply', chaseTick_h, ih, Nat.mod_add_mod, Nat.add_assoc]

theorem chaseTicks_h_lt {n : Nat} {led : Led} (hh : led.h < n) (k : Nat) :
    ((chaseTick n)^[k] led).h < n :=
  (chaseTicks_h hh k).trans_lt (Nat.mod_lt _ (Nat.zero_lt_of_lt hh))

/-- A pixel that is not the head of any of `k` ticks is halved by each of them. -/
theorem chaseTicks_get_trailing {n : Nat} {led : Led} (hl : led.fb.length = n) (hh : led.h < n)
    {i k : Nat} (hi : ∀ j, j < k → i ≠ (led.h + j) % n) :
    ((chaseTick n)^[k] led).fb[i]? = (led.fb[i]?).map fun p => shiftChannels p k := by
  induction k with
  | zero => simp [shiftChannels_zero]
  | succ k ih =>
    rw [Function.iterate_succ_apply', chaseTick_get_trailing
      ((chaseTicks_fb_length n k led).trans hl) (chaseTicks_h_lt hh k)
      (chaseTicks_h hh k ▸ hi k k.lt_succ_self), ih fun j hj => hi j (Nat.lt_succ_of_lt hj),
      Option.map_map]
    simp only [Function.comp_def, scale_half, shiftChannels_shiftChannels]

/-- The head does not come back within `n - 1` ticks of the one that wrote a pixel. -/
theorem head_ne_of_later {n h : Nat} (hh : h < n) {j : Nat} (hj : j + 1 < n) :
    h ≠ ((h + 1) % n + j) % n := by
  rw [Nat.mod_add_mod, Nat.add_assoc, Nat.add_comm 1 j]
  intro heq
  rcases Nat.lt_or_ge (h + (j + 1)) n with hlt | hge
  · rw [Nat.mod_eq_of_lt hlt] at heq
    omega
  · rw [Nat.mod_eq_sub_mod hge, Nat.mod_eq_of_lt (by omega)] at heq
    omega

/-- Settles O43: the pixel trails until the head has gone once round the buffer. -/
theorem chaseDecay : Obligations.ChaseDecay := by
  refine ⟨fun s => exec_chaseStep, fun led n hl hh => ?_⟩
  have hl' : (chaseTick n led).fb.length = n := (chaseTick_fb_length ..).trans hl
  have hh' : (chaseTick n led).h < n := chaseTicks_h_lt hh 1
  refine ⟨chaseTick_get_head hl hh, fun k _ hk => ?_, ?_⟩
  · have htrail : ∀ j, j < k → led.h ≠ ((chaseTick n led).h + j) % n := fun j hj =>
      chaseTick_h n led ▸ head_ne_of_later hh (by omega)
    dsimp only
    rw [chaseTicks_get_trailing hl' hh' htrail, chaseTick_get_head hl hh]
    rfl
  · obtain ⟨m, rfl⟩ := Nat.exists_eq_add_one_of_ne_zero (Nat.ne_zero_of_lt hh)
    have hback : ((chaseTick (m + 1))^[m] (chaseTick (m + 1) led)).h = led.h := by
      rw [chaseTicks_h hh', chaseTick_h, Nat.mod_add_mod, Nat.add_assoc, Nat.add_comm 1 m,
        Nat.add_mod_right, Nat.mod_eq_of_lt hh]
    dsimp only
    rw [Function.iterate_succ_apply', ← hback]
    exact chaseTick_get_head ((chaseTicks_fb_length ..).trans hl') (chaseTicks_h_lt hh' m)

/-! ## WHEEL_STEP -/

/-- WHEEL_STEP's list is one wheel tick, which finishes the operation (R230). -/
theorem exec_wheelStep {s : State} (h0 : s.l.mu = 0) : exec .wheelStep s = .next { s with
    led := wheelTick s.cfg.nPixels s.cfg.wheelBrightness s.led, l := s.l.complete .ok } := by
  have hrun := exec_of_item (i := .wheelStep) (m := .wheel) (s := s) (fun _ => rfl)
    (by simp [execUnit, itemsOf, h0])
  rw [hrun, ← finish_one]
  rfl

theorem wheelFrame_length (n : Nat) (brightness : Word) (j : Nat) :
    (wheelFrame n brightness j).length = n := by simp [wheelFrame]

theorem wheelFrame_get {n i : Nat} (hi : i < n) (brightness : Word) (j : Nat) :
    (wheelFrame n brightness j)[i]? = some (scale (wheel (wheelPosition n j i)) brightness) := by
  simp [wheelFrame, hi]

/-- Settles O19: the tick's frame, pixel by pixel; a pixel's offset is a fraction of 256. -/
theorem wheelStepComputesItsFrame : Obligations.WheelStepComputesItsFrame := by
  intro s h0
  refine ⟨_, exec_wheelStep h0, wheelFrame_length .., fun i hi => ⟨?_, wheelFrame_get hi ..⟩, rfl,
    rfl⟩
  exact Nat.div_lt_of_lt_mul (Nat.mul_lt_mul_of_pos_right hi (by decide))

/-! ## A number of wheel ticks -/

theorem mod_cycle_mod (j : Nat) : j % Config.wheelCycle % 256 = j % 256 :=
  Nat.mod_mod_of_dvd j (by decide)

/-- A frame depends on the wheel counter modulo 256 alone (R231). -/
theorem wheelFrame_congr {j j' : Nat} (h : j % 256 = j' % 256) (n : Nat) (brightness : Word) :
    wheelFrame n brightness j = wheelFrame n brightness j' := by
  simp only [wheelFrame, wheelPosition, Nat.add_mod _ j, Nat.add_mod _ j', h]

theorem wheelTicks_j (n : Nat) (brightness : Word) (led : Led) (k : Nat) :
    ((wheelTick n brightness)^[k] led).j % 256 = (led.j + k) % 256 := by
  induction k with
  | zero => rfl
  | succ k ih =>
    rw [Function.iterate_succ_apply']
    exact (mod_cycle_mod _).trans (by rw [Nat.add_mod, ih, ← Nat.add_mod, Nat.add_assoc])

theorem wheelTicks_fb (n : Nat) (brightness : Word) (led : Led) (k : Nat) :
    ((wheelTick n brightness)^[k + 1] led).fb = wheelFrame n brightness (led.j + k) := by
  rw [Function.iterate_succ_apply']
  exact wheelFrame_congr (wheelTicks_j ..) n brightness

/-- Settles O44: 1280 is a multiple of 256, and a frame sees its counter modulo 256 alone. -/
theorem wheelFramesRepeat : Obligations.WheelFramesRepeat := by
  refine ⟨fun s => exec_wheelStep, fun j => mod_cycle_mod _, fun n brightness led k hk => ?_⟩
  obtain ⟨m, rfl⟩ := Nat.exists_eq_add_of_le' hk
  rw [Nat.add_right_comm, wheelTicks_fb, wheelTicks_fb]
  exact wheelFrame_congr (by omega) n brightness

/-! ## Who writes the frame buffer (R234) -/

/-- What the frame source writes: FB and its counters (R35). -/
def frameSource (led : Led) : List Pixel × Byte × Nat × Nat := (led.fb, led.c, led.h, led.j)

theorem frameSource_noteFrame (r : FrameResult) (led : Led) :
    frameSource (led.noteFrame r) = frameSource led := by cases r <;> rfl

theorem itemStep_led (u : UnitId) (n : Nat) (m : Micro) (s : State) :
    (itemStep u n m s).led = (perform u m s).led := by
  unfold itemStep
  split
  · rfl
  · exact mapSeq_led ..

theorem perform_frameSource {u : UnitId} {m : Micro} {s : State}
    (h : frameSource (perform u m s).led ≠ frameSource s.led) : m = .chase ∨ m = .wheel := by
  cases m with
  | chase => exact .inl rfl
  | wheel => exact .inr rfl
  | sleep | tick | ticker => exact absurd (congrArg frameSource (mapSeq_led ..)) h
  | line | spi | drv | drvReady | frame => exact absurd rfl h

/-- Only the two frame-source operations have an animation tick in their lists. -/
theorem animation_item {cfg : Config} {i : Instr} {k : Nat} {m : Micro}
    (h : (itemsOf cfg i)[k]? = some m) (hm : m = .chase ∨ m = .wheel) :
    i = .chaseStep ∨ i = .wheelStep := by
  have hmem := List.mem_of_getElem? h
  by_cases hi : isComposite i = true
  · have hin := itemsOf_inDisplay hi cfg m hmem
    rcases hm with rfl | rfl <;> exact hin.elim
  · cases i
    case chaseStep => exact .inl rfl
    case wheelStep => exact .inr rfl
    case dispInit | dispCmd | dispData => exact absurd rfl hi
    all_goals rcases hm with rfl | rfl <;> simp [itemsOf] at hmem

theorem unitStep_frameSource {s t : State} {u : UnitId} (h : s.unitStep u = .next t)
    (hne : frameSource t.led ≠ frameSource s.led) :
    s.current u = some .chaseStep ∨ s.current u = some .wheelStep := by
  rcases unitStep_next h with ⟨i, hc, hi⟩ | ⟨op, _, _, rfl⟩ | ⟨op, _, _, rfl⟩
  · rcases exec_next hi with ⟨_, _, rfl⟩ | ⟨_, m, hm, rfl⟩
    · exact absurd (congrArg frameSource (mapSeq_led ..)) hne
    · rw [itemStep_led] at hne
      rcases animation_item hm (perform_frameSource hne) with rfl | rfl
      · exact .inl hc
      · exact .inr hc
  · exact absurd (congrArg frameSource (mapSeq_led ..)) hne
  · exact absurd (congrArg frameSource (mapSeq_led ..)) hne

theorem timerStep_led (s : State) (u : UnitId) : (s.timerStep u).led = s.led := by
  cases hp : (s.seq u).pending with
  | none => rw [timerStep_of_none hp]
  | some p => rw [timerStep_eq hp, mapSeq_led]

/-- The frame source's state changes in a sequencer step of unit L at one of its two operations. -/
theorem agentStep_frameSource {s t : State} {a : Agent} (h : s.agentStep a = .next t)
    (hne : frameSource t.led ≠ frameSource s.led) :
    a = .unit .l ∧ (s.current .l = some .chaseStep ∨ s.current .l = some .wheelStep) := by
  cases a with
  | unit u =>
    have hc := unitStep_frameSource h hne
    cases u with
    | d => rcases hc with hc | hc <;> cases current_allows hc
    | l => exact ⟨rfl, hc⟩
  | spi =>
    obtain ⟨-, -, hled, -⟩ := sameSide_l.mp (spiStep_otherSide s)
    exact absurd (congrArg frameSource (Host.Outcome.next.inj h ▸ hled)) hne
  | pulse =>
    rw [← Host.Outcome.next.inj h, pulseStep_wakes] at hne
    exact absurd (frameSource_noteFrame ..) hne
  | timer u =>
    exact absurd (congrArg frameSource (Host.Outcome.next.inj h ▸ timerStep_led s u)) hne

theorem step_frameSource {s t : State} (h : step s = .next t)
    (hne : frameSource t.led ≠ frameSource s.led) : s.mover = some (.unit .l) ∧
      (s.current .l = some .chaseStep ∨ s.current .l = some .wheelStep) := by
  obtain ⟨a, r, hm, hr, rfl⟩ := step_cases h
  rw [nextDraw_led] at hne
  obtain ⟨rfl, hc⟩ := agentStep_frameSource hr hne
  exact ⟨hm, hc⟩

/-- While unit L waits for its frame, its sequencer does not move, so its frame source writes
nothing. -/
theorem frameSource_while_waiting {s t : State} (hw : s.l.run = .waiting .frameDone)
    (h : step s = .next t) : frameSource t.led = frameSource s.led := by
  by_contra hne
  have hrun : s.l.run = .running := beq_iff_eq.mp (mover_enabled (step_frameSource h hne).1)
  simp [hw] at hrun

/-- The step that changes a frame in flight ends it (R172). -/
theorem pulse_while_waiting {s t : State} (hs : s.Inv) (hw : s.l.run = .waiting .frameDone)
    (h : step s = .next t) (hb : t.pulse.busy = true) : t.pulse = s.pulse := by
  rcases step_while_waiting hs (u := .l) (agent_eq_pulse.mpr hw) h with hm | hside
  · rw [step_of_mover hm] at h
    obtain rfl := Host.Outcome.next.inj h
    rw [nextDraw_pulse, pulseStep_wakes] at hb
    cases hb
  · exact (sameSide_l.mp hside).2.2.2

/-- Settles O57: the frame source's two operations alone write its state, and unit L is at neither
while it waits for a frame. -/
theorem frameBufferWriters : Obligations.FrameBufferWriters := by
  intro s t hs h
  refine ⟨step_frameSource h, fun hb => ?_⟩
  have hw : s.l.run = .waiting .frameDone := (hs.unit .l).frameWait.mpr ⟨rfl, hb⟩
  exact ⟨hw, congrArg Prod.fst (frameSource_while_waiting hw h), pulse_while_waiting hs hw h⟩

end Sys2Proof.Machine
end

section
/-! Exceptions (R250 to R261): a check that fails halts its unit and does nothing else, the refusals
of an operation and of a launch, and a fault of one unit is none of the other's. -/

namespace Sys2Proof.Machine

/-! ## Checks that fail (R255, R256) -/

/-- An operation whose check raises a halting fault halts its unit, with no other effect. -/
theorem exec_haltedBy_of_check {i : Instr} {s : State} {code : FaultCode} {info : FaultInfo}
    (h0 : (s.seq (execUnit i s)).mu = 0) (hc : execCheck i s = (false, code, info))
    (hh : code.halts s.cfg = true) :
    ∃ t, exec i s = .next t ∧ s.HaltedBy (execUnit i s) code info t := by
  refine ⟨_, exec_of_check_fails h0 (congrArg Prod.fst hc), ?_⟩
  rw [hc]
  exact haltedBy_raise hh _ info

/-- Settles O20: each operation's check fails on the value it is given. -/
theorem parameterChecksHalt : Obligations.ParameterChecksHalt := by
  refine ⟨fun count s h0 hn => ?_, ?_⟩
  · have hcheck : (count.toNat == s.cfg.nPixels) = false := beq_false_of_ne hn
    exact exec_haltedBy_of_check (i := .pulseWrite count) h0 (by rw [execCheck, hcheck]) rfl
  · rintro _ s rfl h0
    exact ⟨exec_haltedBy_of_check (i := .tickerSet 0) h0 rfl rfl, fun harmed =>
      exec_haltedBy_of_check (i := .tickerNext) h0 (by rw [execCheck, harmed]) rfl⟩

/-! ## Refusals (R257) -/

/-- A refusal as a step: the payload's length is wrong when the operation is fetched (R28, R81). -/
theorem step_refuse {s : State} {u : UnitId} {op : Op} (hm : s.mover = some (.unit u))
    (ho : (s.seq u).op? = some op) (hd : op.decode u = .payloadLength) :
    step s = .next ((s.withAgent (.unit u)).refuse u).nextDraw := by
  refine step_of_agentStep hm ?_
  simp only [State.agentStep, State.unitStep, withAgent_seq, ho, hd]

theorem configOk_iff {cfg : Config} : configOk cfg = true ↔
    1 ≤ cfg.nPixels ∧ cfg.nPixels ≤ 65535 ∧ f32IsNaN cfg.wheelBrightness = false ∧
      200 ≤ cfg.tSettleMs.toNat ∧ cfg.tChaseMs.toNat ≠ 0 := by
  simp only [configOk, Bool.and_eq_true, decide_eq_true_eq, Bool.not_eq_true', and_assoc,
    Nat.one_le_iff_ne_zero]

/-- A `do` block lacks a value where its first line does or, whatever that line gives, its rest. -/
theorem bind_eq_none_iff_or {α β : Type} {x : Option α} {f : α → Option β} {P : Prop}
    (h : ∀ a, f a = none ↔ P) : (x >>= f) = none ↔ x = none ∨ P := by
  cases x with
  | none => exact iff_of_true rfl (.inl rfl)
  | some a => exact (h a).trans (or_iff_right (Option.some_ne_none a)).symm

/-- A launch lacks a configuration where an OPEN parameter has no value (R257). -/
theorem config_eq_none_iff {p : Supplied} : p.config = none ↔
    p.nPixels = none ∨ p.tRstLowMs = none ∨ p.wheelBrightness = none ∨ p.tChaseMs = none ∨
      p.pwrReset = none ∨ p.spiMode = none ∨ p.spiClockHz = none ∨ p.pulseTiming = none ∨
      p.clockWidth = none := by
  unfold Supplied.config
  iterate 8 refine bind_eq_none_iff_or fun _ => ?_
  exact (bind_eq_none_iff_or fun _ => iff_false_intro (Option.some_ne_none _)).trans
    (Iff.of_eq (or_false _))

theorem launch_of_ok {p : Supplied} {cfg : Config} (hp : p.config = some cfg)
    (hok : configOk cfg = true) (progD progL : Program) (dc : Level) :
    launch p progD progL dc = State.atReset cfg progD progL dc := by
  simp only [launch, hp, hok, if_true]

theorem launch_of_refused {p : Supplied}
    (h : p.config = none ∨ ∃ cfg, p.config = some cfg ∧ configOk cfg = false)
    (progD progL : Program) (dc : Level) :
    launch p progD progL dc = refusedLaunch progD progL dc := by
  rcases h with hp | ⟨cfg, hp, hbad⟩
  · simp only [launch, hp]
  · simp only [launch, hp, hbad, Bool.false_eq_true, if_false]

/-- A refused launch marks and halts both units (R257). -/
theorem refusedLaunch_seq (progD progL : Program) (dc : Level) (u : UnitId) :
    ((refusedLaunch progD progL dc).seq u).refused = true ∧
      ((refusedLaunch progD progL dc).seq u).run = .halted := by
  cases u <;> exact ⟨rfl, rfl⟩

/-- Settles O11: a refusal writes its unit's sequencer alone, every step keeps the mark, and a
launch is refused where it has no configuration or a bad one. -/
theorem refusals : Obligations.Refusals := by
  refine ⟨fun s u => ⟨mapSeq_seq s u _, mapSeq_sameBut u _ s⟩,
    fun s t u hst => ((continues_step hst).seq u).refused, fun _ _ _ => step_refuse,
    fun _ => configOk_iff, fun _ => config_eq_none_iff,
    fun p progD progL dc => ⟨fun cfg hp hok => launch_of_ok hp hok .., fun h u => ?_⟩⟩
  rw [launch_of_refused h]
  exact refusedLaunch_seq ..

/-! ## Isolation (R261) -/

/-- Whether an agent has an enabled step is read from the side of the unit it acts for (R20). -/
theorem enabled_sameSide {s t : State} {a : Agent} (h : s.SameSide a.owner t) :
    t.enabled a = s.enabled a := by
  cases a with
  | unit u => exact congrArg (·.run == .running) h.seq_eq
  | spi => exact congrArg (·.spi.busy) h
  | pulse => exact congrArg (·.pulse.busy) h
  | timer u => exact congrArg (·.pending.isSome) h.seq_eq

/-- Settles O49: a step leaves the side of the unit it does not act for, and that side says which of
the unit's agents have an enabled step. -/
theorem unitsAreIsolated : Obligations.UnitsAreIsolated := by
  intro s t a hm hst
  refine ⟨fun hd => ?_, fun hl => ?_,
    fun b hb => enabled_sameSide (step_otherSide hm hb.symm hst)⟩
  · exact step_otherSide (u := .l) hm (by simp [hd]) hst
  · exact step_otherSide (u := .d) hm (by simp [hl]) hst

end Sys2Proof.Machine
end

section
/-! How long a frame takes on the pulse wire (R177, R303). -/

namespace Sys2Proof.Machine

/-- The pulse of either bit takes the bit period where both pairs of times sum to it (R303). -/
theorem bitPulse_period {t : PulseTiming} {period : Nat} (h0 : t.t0h + t.t0l = period)
    (h1 : t.t1h + t.t1l = period) (bit : Bool) :
    (bitPulse t bit).1 + (bitPulse t bit).2 = period := by
  cases bit
  · exact h0
  · exact h1

/-- With one period for both bits, the time of a frame does not depend on its colours. -/
theorem frameNs_of_period {cfg : Config} {period : Nat}
    (h0 : cfg.pulseTiming.t0h + cfg.pulseTiming.t0l = period)
    (h1 : cfg.pulseTiming.t1h + cfg.pulseTiming.t1l = period) (pixels : List Pixel) :
    frameNs cfg pixels = 24 * pixels.length * period + cfg.pulseTiming.latch := by
  simp only [frameNs, bitPulse_period h0 h1, List.map_const', List.sum_replicate, frameBits_length,
    smul_eq_mul]

/-- Settles O60: either bit of R303's figures takes 1250 ns, 400 + 850 or 800 + 450. -/
theorem frameDuration : Obligations.FrameDuration := by
  intro cfg pixels ht
  have h0 : cfg.pulseTiming.t0h + cfg.pulseTiming.t0l = 1250 := by simp [ht]
  have h1 : cfg.pulseTiming.t1h + cfg.pulseTiming.t1l = 1250 := by simp [ht]
  rw [frameNs_of_period h0 h1, ht]

end Sys2Proof.Machine
end
